-- ==== Sys2Proof/Word.lean ====
section
/-! DEFINITION. The words of the block: every operand and result is an unsigned bit vector, bit 0 least significant (00_scope.md R4, R7). -/

namespace Sys2Proof

/-- One coordinate bit. -/
abbrev Bit := BitVec 1

/-- One base-4 digit of an index, an output symbol of the encode table (width DW of R4; R8). -/
abbrev Digit := BitVec 2

/-- The code of an automaton state (width SW of R4; 30_encoding.md R81, 41_tables.md R110). -/
abbrev AutomatonState := BitVec 2

/-- The operation code field (30_encoding.md R70). -/
abbrev OpCode := BitVec 3

/-- The order field (width KW of R4). -/
abbrev Order := BitVec 6

/-- A coordinate (width XW of R4). -/
abbrev Coord := BitVec 32

/-- A HilbertIndex (width IW of R4). -/
abbrev Index := BitVec 64

/-- A packed request (30_encoding.md R70). -/
abbrev ReqWord := BitVec 137

/-- A packed response (30_encoding.md R71). -/
abbrev RspWord := BitVec 131

end Sys2Proof
end

