-- ==== Sys2Proof/Syntax.lean ====
section
/-! DEFINITION. The request record and the operations, one constructor per row of spec/opcode_table.json (30_encoding.md R70, R72). -/

namespace Sys2Proof

/-- The five fields of a request (30_encoding.md R70). -/
structure Request where
  op : OpCode
  k  : Order
  x  : Coord
  y  : Coord
  v  : Index
  deriving DecidableEq, Repr, Inhabited

/-- The operations, each with exactly the fields it reads (30_encoding.md R72, R73). -/
inductive Instr where
  /-- `op` = 0: 32-bit most-significant-bit index (40_bitscan.md R101). -/
  | msb32 (x : Coord)
  /-- `op` = 1: 64-bit most-significant-bit index (40_bitscan.md R102). -/
  | msb64 (v : Index)
  /-- `op` = 2: encode, direct variant (42_encoder_direct.md R140). -/
  | encd (x y : Coord) (k : Order)
  /-- `op` = 3: encode, table-accelerated variant (43_encoder_lut.md R160). -/
  | encl (x y : Coord) (k : Order)
  /-- `op` = 4: decode (44_decoder.md R170). -/
  | dec (v : Index) (k : Order)
  /-- `op` = 5: reserved (30_encoding.md R76). -/
  | reserved5
  /-- `op` = 6: reserved (30_encoding.md R76). -/
  | reserved6
  /-- `op` = 7: reserved (30_encoding.md R76). -/
  | reserved7
  deriving DecidableEq, Repr

end Sys2Proof
end

