-- ==== Sys2Proof/Machine/Registers.lean ====
section
/-! DEFINITION. The response latch and the working registers, with their widths (10_state.md R24, R25, R26; 60_exceptions.md R191). -/

namespace Sys2Proof.Machine

/-- The five faults (60_exceptions.md R191). -/
inductive FaultCode where
  | illegalOp
  | orderRange
  | xRange
  | yRange
  | indexRange
  deriving DecidableEq, Repr, Inhabited

/-- The status of a response: OK or a fault. The codes 6 and 7 are never produced, so no constructor stands for them
(60_exceptions.md R191; log entry 15). -/
inductive Status where
  | ok
  | fault (f : FaultCode)
  deriving DecidableEq, Repr, Inhabited

/-- The four fields of a response (30_encoding.md R71). -/
structure Response where
  status : Status
  r  : Index
  rx : Coord
  ry : Coord
  deriving DecidableEq, Repr, Inhabited

/-- What one operation has to say: exactly the fields it writes (30_encoding.md R72, R75). -/
inductive Answer where
  /-- Status OK and `r`: MSB32, MSB64, ENCD, ENCL. -/
  | value (r : Index)
  /-- Status OK and `rx`, `ry`: DEC. -/
  | cell (rx ry : Coord)
  /-- A fault status and no result (60_exceptions.md R198). -/
  | fault (f : FaultCode)
  deriving DecidableEq, Repr

/-- The working registers of ENCD and ENCL; `sp` and `i` are signed (10_state.md R25). -/
structure EncRegs where
  bitX : Bit
  bitY : Bit
  wx   : Coord
  wy   : Coord
  sp   : BitVec 7
  m    : BitVec 6
  st   : AutomatonState
  acc  : Index
  i    : BitVec 7
  deriving DecidableEq, Repr, Inhabited

/-- The working registers of DEC; `j`, `p` and `q` are signed (10_state.md R26). -/
structure DecRegs where
  top : Digit
  run : BitVec 6
  st  : AutomatonState
  x   : Coord
  y   : Coord
  j   : BitVec 6
  p   : BitVec 7
  q   : BitVec 7
  deriving DecidableEq, Repr, Inhabited

end Sys2Proof.Machine
end

