-- ==== Sys2Proof/Config.lean ====
section
/-! DEFINITION. The free values: what the spec leaves unspecified, as constants without a body, each applied to a plain counter
(30_encoding.md R75, 60_exceptions.md R198, 10_state.md R23, R24, R27; log entries 2 and 3). Nothing can evaluate one or prove a value of it. -/

namespace Sys2Proof.Config

/-- `rsp.r` of a response whose operation does not write it (30_encoding.md R75). -/
opaque freeR : Nat → Index

/-- `rsp.rx` of a response whose operation does not write it (30_encoding.md R75). -/
opaque freeRx : Nat → Coord

/-- `rsp.ry` of a response whose operation does not write it (30_encoding.md R75). -/
opaque freeRy : Nat → Coord

/-- `req` in the phases Idle and Done (10_state.md R23). -/
opaque freeReq : Nat → Request

/-- `rsp` in the phases Idle and Busy (10_state.md R24). -/
opaque freeRsp : Nat → Machine.Response

/-- The encoders' working registers outside an operation (10_state.md R27). -/
opaque freeEnc : Nat → Machine.EncRegs

/-- The decoder's working registers outside an operation (10_state.md R27). -/
opaque freeDec : Nat → Machine.DecRegs

end Sys2Proof.Config
end

