-- ==== Sys2Proof/WellFormed.lean ====
section
/-! DEFINITION. The checks on a request: the word's length (30_encoding.md R77) and the documented preconditions (60_exceptions.md R190). -/

namespace Sys2Proof

/-- A number is a request word when it fits the one request length, 137 bits (30_encoding.md R70, R77). -/
def fitsRequest (w : Nat) : Bool := decide (w < 2 ^ 137)

/-- The order is in its range (00_scope.md R4, 60_exceptions.md R193). -/
def validOrder (k : Order) : Bool := decide (1 ≤ k.toNat ∧ k.toNat ≤ 32)

/-- A coordinate is in range at order k (60_exceptions.md R194, R195). -/
def validCoord (x : Coord) (k : Order) : Bool := decide (x.toNat < 2 ^ k.toNat)

/-- An index is in range at order k (60_exceptions.md R196). -/
def validIndex (v : Index) (k : Order) : Bool := decide (v.toNat < 2 ^ (2 * k.toNat))

/-- The documented preconditions hold and the code names an operation (60_exceptions.md R190). The types carry the field
widths, so every term of `Instr` can be encoded; a term this refuses still runs, and reports its fault. -/
def Instr.wellFormed : Instr → Bool
  | .msb32 _ => true
  | .msb64 _ => true
  | .encd x y k => validOrder k && validCoord x k && validCoord y k
  | .encl x y k => validOrder k && validCoord x k && validCoord y k
  | .dec v k => validOrder k && validIndex v k
  | .reserved5 => false
  | .reserved6 => false
  | .reserved7 => false

end Sys2Proof
end

