-- ==== Sys2Proof/Decode.lean ====
section
/-! DEFINITION. Packing, the decoder (total on every request) and the encoder (30_encoding.md R70, R72, R73, R78, R80). -/

namespace Sys2Proof

/-- The request word {v, y, x, k, op}, `op` least significant (30_encoding.md R70). -/
def Request.pack (q : Request) : ReqWord := q.v ++ q.y ++ q.x ++ q.k ++ q.op

/-- The fields of a request word, at their bit positions (30_encoding.md R70). -/
def Request.unpack (w : ReqWord) : Request where
  op := w.extractLsb' 0 3
  k  := w.extractLsb' 3 6
  x  := w.extractLsb' 9 32
  y  := w.extractLsb' 41 32
  v  := w.extractLsb' 73 64

/-- The operation a request selects: `op` alone decides, and the fields the operation does not read are dropped
(30_encoding.md R72, R73, R80). -/
def decodeRequest (q : Request) : Instr :=
  match q.op with
  | 0#3 => .msb32 q.x
  | 1#3 => .msb64 q.v
  | 2#3 => .encd q.x q.y q.k
  | 3#3 => .encl q.x q.y q.k
  | 4#3 => .dec q.v q.k
  | 5#3 => .reserved5
  | 6#3 => .reserved6
  | 7#3 => .reserved7

/-- The operation of a packed request: every one of the 2^137 words is classified (30_encoding.md R76). -/
def decode (w : ReqWord) : Instr := decodeRequest (Request.unpack w)

/-- Why a number is no request word. -/
inductive DecodeReject where
  /-- Raised by `decodeNat` for a number of more than 137 bits: there is no such request (30_encoding.md R77). Safe. -/
  | longerThanRequest
  deriving DecidableEq, Repr

/-- The decoder on any number: a word of the one request length, or a rejection by name (30_encoding.md R77). -/
def decodeNat (w : Nat) : Except DecodeReject Instr :=
  if fitsRequest w then .ok (decode (BitVec.ofNat 137 w)) else .error .longerThanRequest

/-- The request word whose bits are the first `nbits` of w, all higher bits zero: the transport is the packed word itself,
with no byte order to apply (20_memory.md R56; log entry 12). -/
def tableWord (nbits w : Nat) : Nat := w % 2 ^ nbits

/-- The instruction the decoder reads from an opcode-table word. -/
def decodeTableWord (nbits w : Nat) : Option Instr :=
  match decodeNat (tableWord nbits w) with
  | .ok i => some i
  | .error _ => none

/-- The operation code of an instruction (30_encoding.md R72). -/
def Instr.opcode : Instr → OpCode
  | .msb32 _ => 0#3
  | .msb64 _ => 1#3
  | .encd _ _ _ => 2#3
  | .encl _ _ _ => 3#3
  | .dec _ _ => 4#3
  | .reserved5 => 5#3
  | .reserved6 => 6#3
  | .reserved7 => 7#3

/-- The request that asks for an instruction: ignored fields are assembled as zero (30_encoding.md R78). -/
def encodeRequest : Instr → Request
  | .msb32 x => { op := 0#3, k := 0, x := x, y := 0, v := 0 }
  | .msb64 v => { op := 1#3, k := 0, x := 0, y := 0, v := v }
  | .encd x y k => { op := 2#3, k := k, x := x, y := y, v := 0 }
  | .encl x y k => { op := 3#3, k := k, x := x, y := y, v := 0 }
  | .dec v k => { op := 4#3, k := k, x := 0, y := 0, v := v }
  | .reserved5 => { op := 5#3, k := 0, x := 0, y := 0, v := 0 }
  | .reserved6 => { op := 6#3, k := 0, x := 0, y := 0, v := 0 }
  | .reserved7 => { op := 7#3, k := 0, x := 0, y := 0, v := 0 }

/-- The request word of an instruction (30_encoding.md R70, R78). -/
def encode (i : Instr) : ReqWord := (encodeRequest i).pack

end Sys2Proof
end

