-- ==== Sys2Proof/Machine/Flags.lean ====
section
/-! DEFINITION. The block has no flags (10_state.md R30); what a request computes in their place is its status: the code of it,
and the checks that come before every operation (60_exceptions.md R191, R197). -/

namespace Sys2Proof.Machine

/-- The code of a fault (60_exceptions.md R191). -/
def FaultCode.code : FaultCode → BitVec 3
  | .illegalOp => 1
  | .orderRange => 2
  | .xRange => 3
  | .yRange => 4
  | .indexRange => 5

/-- The code of a status (60_exceptions.md R191). -/
def Status.code : Status → BitVec 3
  | .ok => 0
  | .fault f => f.code

/-- The check on the order, for ENCD, ENCL and DEC (60_exceptions.md R193, R197). -/
def orderFails (k : Order) : Bool := k == 0 || decide (32 < k.toNat)

/-- A coordinate has a bit at or above k; for k = 32 it has none (60_exceptions.md R197). -/
def coordFails (x : Coord) (k : Order) : Bool := x >>> k.toNat != 0

/-- An index has a bit at or above 2k; for k = 32 it has none (60_exceptions.md R197). -/
def indexFails (v : Index) (k : Order) : Bool := decide (k.toNat < 32) && v >>> (2 * k.toNat) != 0

/-- The checks of ENCD and ENCL, in their priority (60_exceptions.md R197). -/
def checkEncode (x y : Coord) (k : Order) : Option FaultCode :=
  if orderFails k then some .orderRange
  else if coordFails x k then some .xRange
  else if coordFails y k then some .yRange
  else none

/-- The checks of DEC, in their priority (60_exceptions.md R197). -/
def checkDecode (v : Index) (k : Order) : Option FaultCode :=
  if orderFails k then some .orderRange
  else if indexFails v k then some .indexRange
  else none

/-- `check(req)`: the one fault a request reports, or none (60_exceptions.md R197). -/
def check : Instr → Option FaultCode
  | .msb32 _ => none
  | .msb64 _ => none
  | .encd x y k => checkEncode x y k
  | .encl x y k => checkEncode x y k
  | .dec v k => checkDecode v k
  | .reserved5 => some .illegalOp
  | .reserved6 => some .illegalOp
  | .reserved7 => some .illegalOp

end Sys2Proof.Machine
end

