-- ==== Sys2Proof/Machine/Operands.lean ====
section
/-! DEFINITION. Operands and results: how a result stands in the response, and the response word (30_encoding.md R71, R74, R75).
Operands are the request's fields as they are, unsigned, unscaled and unshifted (R74): the decoder puts them into the instruction. -/

namespace Sys2Proof.Machine

/-- A signed position, sign-extended to 64 bits: −1 becomes all ones (30_encoding.md R75). -/
def sext64 (p : Int) : Index := BitVec.ofInt 64 p

/-- The response that carries an answer: the fields the operation writes, and a free value in every other one
(30_encoding.md R75, 60_exceptions.md R198; log entry 2). -/
def Answer.toResponse (n : Nat) : Answer → Response
  | .value r => { status := .ok, r := r, rx := Config.freeRx n, ry := Config.freeRy n }
  | .cell rx ry => { status := .ok, r := Config.freeR n, rx := rx, ry := ry }
  | .fault f => { status := .fault f, r := Config.freeR n, rx := Config.freeRx n, ry := Config.freeRy n }

/-- The response word {ry, rx, r, status}, `status` least significant (30_encoding.md R71). -/
def Response.pack (t : Response) : RspWord := t.ry ++ t.rx ++ t.r ++ t.status.code

end Sys2Proof.Machine
end

