-- ==== Sys2Proof/Machine/State.lean ====
section
/-! DEFINITION. The machine's state, its reset value, and the reasons a step could stop (10_state.md R21 to R27, R35). -/

namespace Sys2Proof.Machine

/-- The interface phase (10_state.md R22). -/
inductive Phase where
  | idle
  | busy
  | done
  deriving DecidableEq, Repr

/-- One turn of the host (10_state.md R36; log entry 4). -/
inductive HostMove where
  /-- Submit a request; a move in phase Idle only. -/
  | submit (q : Request)
  /-- Take the response; a move in phase Done only. -/
  | take
  /-- Assert reset, at any time. -/
  | reset
  /-- Make no move, so that the unit has this step. -/
  | wait
  deriving DecidableEq, Repr

/-- Everything the spec gives the machine that can change (10_state.md R21), and the host's side of the interface (R36).
The three tables are constants and stand in Machine/Tables.lean (log entry 8). -/
structure State where
  phase : Phase
  req   : Request
  rsp   : Response
  enc   : EncRegs
  dec   : DecRegs
  /-- The model's own: how many free values have been drawn (log entries 2 and 3). -/
  freeCount : Nat
  /-- The model's own: the turns the host has still to take, next one first; when it is empty the host waits (log entry 4). -/
  turns : List HostMove
  /-- The model's own: the requests accepted and not abandoned by reset, oldest first (log entry 5). -/
  sent  : List Request
  /-- The model's own: the responses the host has taken, oldest first (70_reset_and_hazards.md R228; log entry 5). -/
  taken : List Response
  deriving DecidableEq, Repr

/-- The reasons a step stops with a fault. There are none: the unit has no stuck state, and its own faults are responses, so
next states (60_exceptions.md R198, R211; 70_reset_and_hazards.md R227). -/
inductive Fault
  deriving DecidableEq, Repr

/-- The reasons a step is refused. -/
inductive Refusal where
  /-- Raised by an arm of `exec` whose operation has no meaning yet. No arm raises it. Safe. -/
  | notModelled (mnemonic : String)
  deriving DecidableEq, Repr

/-- The machine right after reset: phase Idle (10_state.md R35). DESIGN CHOICE, unsafe: the latches and the working registers,
which the spec leaves unspecified there, hold zero (log entry 1); the model's own fields are empty. -/
def State.reset : State where
  phase := .idle
  req := { op := 0, k := 0, x := 0, y := 0, v := 0 }
  rsp := { status := .ok, r := 0, rx := 0, ry := 0 }
  enc := { bitX := 0, bitY := 0, wx := 0, wy := 0, sp := 0, m := 0, st := 0, acc := 0, i := 0 }
  dec := { top := 0, run := 0, st := 0, x := 0, y := 0, j := 0, p := 0, q := 0 }
  freeCount := 0
  turns := []
  sent := []
  taken := []

end Sys2Proof.Machine
end

