-- ==== Sys2Proof/Machine/Ops.lean ====
section
/-! DEFINITION. The named operations over the state: completing a request, reporting a fault, the host's moves, and reset
(10_state.md R22, R36; 60_exceptions.md R198 to R200; 70_reset_and_hazards.md R220, R221). -/

namespace Sys2Proof.Machine

/-- The instruction the unit runs next: the operation of the latched request (10_state.md R22, R23). -/
def fetch (s : State) : Instr := decodeRequest s.req

/-- The state after `complete`: `rsp` holds the answer, all four fields written at once, and `phase` is Done. What the request latch
and the working registers hold from here on is unspecified (10_state.md R22, R23, R24, R27; log entry 3). -/
def completed (a : Answer) (s : State) : State :=
  { s with
    phase := .done
    rsp := a.toResponse s.freeCount
    req := Config.freeReq s.freeCount
    enc := Config.freeEnc s.freeCount
    dec := Config.freeDec s.freeCount
    freeCount := s.freeCount + 1 }

/-- `complete`, which is always enabled in phase Busy (10_state.md R22; 70_reset_and_hazards.md R227). -/
def deliver (a : Answer) (s : State) : Host.Outcome State Fault Refusal := .next (completed a s)

/-- `raise <Fault>`: the request completes with the fault's code and no result; nothing is saved, and control goes nowhere
(60_exceptions.md R198, R199). -/
def raiseFault (f : FaultCode) (s : State) : Host.Outcome State Fault Refusal := deliver (.fault f) s

/-- `submit(r)`: in phase Idle the request is latched and `phase` becomes Busy; elsewhere it is no move (10_state.md R22, R36). -/
def hostSubmit (q : Request) (s : State) : State :=
  match s.phase with
  | .idle => { s with req := q, phase := .busy, sent := s.sent ++ [q] }
  | .busy => s
  | .done => s

/-- `take`: in phase Done the host reads `rsp` and `phase` becomes Idle; elsewhere it is no move. It is also the return from a
fault. What `rsp` holds from here on is unspecified (10_state.md R22, R24, R36; 60_exceptions.md R200; log entry 3). -/
def hostTake (s : State) : State :=
  match s.phase with
  | .idle => s
  | .busy => s
  | .done =>
    { s with
      phase := .idle
      taken := s.taken ++ [s.rsp]
      rsp := Config.freeRsp s.freeCount
      freeCount := s.freeCount + 1 }

/-- The requests that still have, or have had, a response when reset comes in this phase: a pending one is abandoned
(70_reset_and_hazards.md R221). -/
def notAbandoned (p : Phase) (sent : List Request) : List Request :=
  match p with
  | .idle => sent
  | .busy => sent.dropLast
  | .done => sent.dropLast

/-- Reset: `phase` becomes Idle, a pending request or response is abandoned, and the latches and working registers are
unspecified (70_reset_and_hazards.md R220, R221; 10_state.md R35; log entry 3). The host is outside the unit and keeps its lists. -/
def hostReset (s : State) : State :=
  { s with
    phase := .idle
    req := Config.freeReq s.freeCount
    rsp := Config.freeRsp s.freeCount
    enc := Config.freeEnc s.freeCount
    dec := Config.freeDec s.freeCount
    freeCount := s.freeCount + 1
    sent := notAbandoned s.phase s.sent }

/-- The effect of one turn of the host (10_state.md R36). -/
def hostMove : HostMove → State → State
  | .submit q, s => hostSubmit q s
  | .take, s => hostTake s
  | .reset, s => hostReset s
  | .wait, s => s

end Sys2Proof.Machine
end

