-- ==== Sys2Proof/Machine/BitScan.lean ====
section
/-! DEFINITION. The bit-scan primitive and its two operations (40_bitscan.md R100 to R102). -/

namespace Sys2Proof.Machine

/-- The highest set bit of n below position p, or −1. -/
def msbBelow {w : Nat} (n : BitVec w) : Nat → Int
  | 0 => -1
  | p + 1 => if n.getLsbD p then (p : Int) else msbBelow n p

/-- `msb_index(n)`: the position of the highest set bit, or the sentinel −1 for n = 0 (40_bitscan.md R100). -/
def msb {w : Nat} (n : BitVec w) : Int := msbBelow n w

/-- The 32-bit variant (40_bitscan.md R100). -/
def msb32 (n : BitVec 32) : Int := msb n

/-- The 64-bit variant (40_bitscan.md R100). -/
def msb64 (n : BitVec 64) : Int := msb n

/-- MSB32 (40_bitscan.md R101). -/
def execMsb32 (x : Coord) (s : State) : Host.Outcome State Fault Refusal :=
  deliver (.value (sext64 (msb32 x))) s

/-- MSB64 (40_bitscan.md R102). -/
def execMsb64 (v : Index) (s : State) : Host.Outcome State Fault Refusal :=
  deliver (.value (sext64 (msb64 v))) s

end Sys2Proof.Machine
end

