-- ==== Sys2Proof/Machine/Bits.lean ====
section
/-! DEFINITION. Bit fields, masks and the shifts of the rules, in the forms that never leave their width (00_scope.md R7, R8; 90_conflicts.md C7). -/

namespace Sys2Proof.Machine

/-- Bit i of a coordinate (00_scope.md R7). -/
def bitAt (x : Coord) (i : Nat) : Bit := x.extractLsb' i 1

/-- Digit j of an index, its bits 2j+1 and 2j (00_scope.md R8). -/
def digitAt (v : Index) (j : Nat) : Digit := v.extractLsb' (2 * j) 2

/-- `ones(n)`, the low n of 32 bits set, by a right shift of all ones (00_scope.md R7, 44_decoder.md R182). -/
def ones (n : Nat) : Coord := 0xFFFF_FFFF#32 >>> (32 - n)

/-- The mask of the low 2k of 64 bits (44_decoder.md R179, R182). -/
def indexMask (k : Nat) : Index := 0xFFFF_FFFF_FFFF_FFFF#64 >>> (64 - 2 * k)

/-- The base-4 repunit A(m), for 1 ≤ m ≤ 32 (41_tables.md R117). -/
def repunit (m : Nat) : Index := 0x5555_5555_5555_5555#64 >>> (64 - 2 * m)

/-- The arithmetic shift right by one: the floor of half (00_scope.md R7). -/
def halfFloor (p : Int) : Int := p.fdiv 2

/-- The larger of two unsigned values (00_scope.md R7). -/
def maxCoord (a b : Coord) : Coord := if a.toNat ≤ b.toNat then b else a

end Sys2Proof.Machine
end

