-- ==== Sys2Proof/Machine/Tables.lean ====
section
/-! DEFINITION. The three constant tables as the spec prints them, the one read primitive, and the rules their entries come from
(20_memory.md R50 to R54; 41_tables.md R110 to R120). -/

namespace Sys2Proof.Machine

/-- A read-only table of 2^n entries of w bits, every index populated (20_memory.md R59). -/
structure Rom (n w : Nat) where
  cells : List (BitVec w)
  full  : cells.length = 2 ^ n

/-- `RomRead(T, a)`: the whole entry at index a (20_memory.md R54). -/
def romRead {n w : Nat} (T : Rom n w) (a : BitVec n) : BitVec w :=
  T.cells[a.toNat]'(by rw [T.full]; exact a.isLt)

/-! The four states (41_tables.md R110). -/

/-- Identity, the base shape. -/
def S0 : AutomatonState := 0#2
/-- Transpose. -/
def S1 : AutomatonState := 1#2
/-- Anti-transpose. -/
def S2 : AutomatonState := 2#2
/-- Half turn. -/
def S3 : AutomatonState := 3#2

/-- The map G of a state on a position (x, y) of the 2 × 2 cell (41_tables.md R110). -/
def orient (s : AutomatonState) (x y : Bit) : Bit × Bit :=
  match s with
  | 0#2 => (x, y)
  | 1#2 => (y, x)
  | 2#2 => (~~~y, ~~~x)
  | 3#2 => (~~~x, ~~~y)

/-- The quadrant P(d) that symbol d stands for in state S0 (41_tables.md R111). -/
def quadrant (d : Digit) : Bit × Bit :=
  match d with
  | 0#2 => (0, 0)
  | 1#2 => (0, 1)
  | 2#2 => (1, 1)
  | 3#2 => (1, 0)

/-- delta(d), the code of the sub-orientation of d (41_tables.md R112). -/
def delta (d : Digit) : AutomatonState :=
  match d with
  | 0#2 => 1
  | 1#2 => 0
  | 2#2 => 0
  | 3#2 => 2

/-- The state after symbol d in state s (41_tables.md R112). -/
def nextState (s : AutomatonState) (d : Digit) : AutomatonState := s ^^^ delta d

/-! The encode table (20_memory.md R51; 41_tables.md R113). -/

/-- The index {state, bitX, bitY} (20_memory.md R51). -/
def encIndex (s : AutomatonState) (bx bY : Bit) : BitVec 4 := s ++ bx ++ bY

/-- The digit of an ENC_TT entry {digit, next}. -/
def encDigit (e : BitVec 4) : Digit := e.extractLsb' 2 2

/-- The next state of an ENC_TT entry {digit, next}. -/
def encNext (e : BitVec 4) : AutomatonState := e.extractLsb' 0 2

/-- ENC_TT, the printed array (41_tables.md R113). -/
def encTT : Rom 4 4 where
  cells := [0x1, 0x4, 0xE, 0x8, 0x0, 0xF, 0x5, 0x9, 0xA, 0x6, 0xC, 0x3, 0xB, 0xD, 0x7, 0x2]
  full := by decide

/-! The decode table (20_memory.md R52; 41_tables.md R114). -/

/-- The index {state, digit} (20_memory.md R52). -/
def decIndex (s : AutomatonState) (d : Digit) : BitVec 4 := s ++ d

/-- bitX of a DEC_TT entry {bitX, bitY, next}. -/
def decBitX (e : BitVec 4) : Bit := e.extractLsb' 3 1

/-- bitY of a DEC_TT entry {bitX, bitY, next}. -/
def decBitY (e : BitVec 4) : Bit := e.extractLsb' 2 1

/-- The next state of a DEC_TT entry {bitX, bitY, next}. -/
def decNext (e : BitVec 4) : AutomatonState := e.extractLsb' 0 2

/-- DEC_TT, the printed array (41_tables.md R114). -/
def decTT : Rom 4 4 where
  cells := [0x1, 0x4, 0xC, 0xA, 0x0, 0x9, 0xD, 0x7, 0xF, 0x6, 0x2, 0x8, 0xE, 0xB, 0x3, 0x5]
  full := by decide

/-! The Partial-Result Table (20_memory.md R53; 41_tables.md R120), printed and not computed: ENCD's arithmetic and the PRT must not
come from the same logic (43_encoder_lut.md R164). -/

/-- The index {topBitX, topBitY, (m − 1)[4:0]} (20_memory.md R53). -/
def prtIndex (bx bY : Bit) (m : BitVec 6) : BitVec 7 := bx ++ bY ++ (m - 1).extractLsb' 0 5

/-- An entry {state, partial} (20_memory.md R53). -/
def prtEntry (s : AutomatonState) (p : Index) : BitVec 66 := s ++ p

/-- The state of a PRT entry. -/
def prtState (e : BitVec 66) : AutomatonState := e.extractLsb' 64 2

/-- The partial index of a PRT entry. -/
def prtPartial (e : BitVec 66) : Index := e.extractLsb' 0 64

/-- The entries of column (0, 0), m = 1 to 16 (41_tables.md R120). -/
def prtColumn00a : List (BitVec 66) :=
  [prtEntry 1 0x0000_0000_0000_0000,
   prtEntry 0 0x0000_0000_0000_0000,
   prtEntry 1 0x0000_0000_0000_0000,
   prtEntry 0 0x0000_0000_0000_0000,
   prtEntry 1 0x0000_0000_0000_0000,
   prtEntry 0 0x0000_0000_0000_0000,
   prtEntry 1 0x0000_0000_0000_0000,
   prtEntry 0 0x0000_0000_0000_0000,
   prtEntry 1 0x0000_0000_0000_0000,
   prtEntry 0 0x0000_0000_0000_0000,
   prtEntry 1 0x0000_0000_0000_0000,
   prtEntry 0 0x0000_0000_0000_0000,
   prtEntry 1 0x0000_0000_0000_0000,
   prtEntry 0 0x0000_0000_0000_0000,
   prtEntry 1 0x0000_0000_0000_0000,
   prtEntry 0 0x0000_0000_0000_0000]

/-- The entries of column (0, 0), m = 17 to 32 (41_tables.md R120). -/
def prtColumn00b : List (BitVec 66) :=
  [prtEntry 1 0x0000_0000_0000_0000,
   prtEntry 0 0x0000_0000_0000_0000,
   prtEntry 1 0x0000_0000_0000_0000,
   prtEntry 0 0x0000_0000_0000_0000,
   prtEntry 1 0x0000_0000_0000_0000,
   prtEntry 0 0x0000_0000_0000_0000,
   prtEntry 1 0x0000_0000_0000_0000,
   prtEntry 0 0x0000_0000_0000_0000,
   prtEntry 1 0x0000_0000_0000_0000,
   prtEntry 0 0x0000_0000_0000_0000,
   prtEntry 1 0x0000_0000_0000_0000,
   prtEntry 0 0x0000_0000_0000_0000,
   prtEntry 1 0x0000_0000_0000_0000,
   prtEntry 0 0x0000_0000_0000_0000,
   prtEntry 1 0x0000_0000_0000_0000,
   prtEntry 0 0x0000_0000_0000_0000]

/-- The entries of column (0, 1), m = 1 to 16 (41_tables.md R120). -/
def prtColumn01a : List (BitVec 66) :=
  [prtEntry 0 0x0000_0000_0000_0001,
   prtEntry 0 0x0000_0000_0000_0005,
   prtEntry 0 0x0000_0000_0000_0015,
   prtEntry 0 0x0000_0000_0000_0055,
   prtEntry 0 0x0000_0000_0000_0155,
   prtEntry 0 0x0000_0000_0000_0555,
   prtEntry 0 0x0000_0000_0000_1555,
   prtEntry 0 0x0000_0000_0000_5555,
   prtEntry 0 0x0000_0000_0001_5555,
   prtEntry 0 0x0000_0000_0005_5555,
   prtEntry 0 0x0000_0000_0015_5555,
   prtEntry 0 0x0000_0000_0055_5555,
   prtEntry 0 0x0000_0000_0155_5555,
   prtEntry 0 0x0000_0000_0555_5555,
   prtEntry 0 0x0000_0000_1555_5555,
   prtEntry 0 0x0000_0000_5555_5555]

/-- The entries of column (0, 1), m = 17 to 32 (41_tables.md R120). -/
def prtColumn01b : List (BitVec 66) :=
  [prtEntry 0 0x0000_0001_5555_5555,
   prtEntry 0 0x0000_0005_5555_5555,
   prtEntry 0 0x0000_0015_5555_5555,
   prtEntry 0 0x0000_0055_5555_5555,
   prtEntry 0 0x0000_0155_5555_5555,
   prtEntry 0 0x0000_0555_5555_5555,
   prtEntry 0 0x0000_1555_5555_5555,
   prtEntry 0 0x0000_5555_5555_5555,
   prtEntry 0 0x0001_5555_5555_5555,
   prtEntry 0 0x0005_5555_5555_5555,
   prtEntry 0 0x0015_5555_5555_5555,
   prtEntry 0 0x0055_5555_5555_5555,
   prtEntry 0 0x0155_5555_5555_5555,
   prtEntry 0 0x0555_5555_5555_5555,
   prtEntry 0 0x1555_5555_5555_5555,
   prtEntry 0 0x5555_5555_5555_5555]

/-- The entries of column (1, 0), m = 1 to 16 (41_tables.md R120). -/
def prtColumn10a : List (BitVec 66) :=
  [prtEntry 2 0x0000_0000_0000_0003,
   prtEntry 0 0x0000_0000_0000_000F,
   prtEntry 2 0x0000_0000_0000_003F,
   prtEntry 0 0x0000_0000_0000_00FF,
   prtEntry 2 0x0000_0000_0000_03FF,
   prtEntry 0 0x0000_0000_0000_0FFF,
   prtEntry 2 0x0000_0000_0000_3FFF,
   prtEntry 0 0x0000_0000_0000_FFFF,
   prtEntry 2 0x0000_0000_0003_FFFF,
   prtEntry 0 0x0000_0000_000F_FFFF,
   prtEntry 2 0x0000_0000_003F_FFFF,
   prtEntry 0 0x0000_0000_00FF_FFFF,
   prtEntry 2 0x0000_0000_03FF_FFFF,
   prtEntry 0 0x0000_0000_0FFF_FFFF,
   prtEntry 2 0x0000_0000_3FFF_FFFF,
   prtEntry 0 0x0000_0000_FFFF_FFFF]

/-- The entries of column (1, 0), m = 17 to 32 (41_tables.md R120). -/
def prtColumn10b : List (BitVec 66) :=
  [prtEntry 2 0x0000_0003_FFFF_FFFF,
   prtEntry 0 0x0000_000F_FFFF_FFFF,
   prtEntry 2 0x0000_003F_FFFF_FFFF,
   prtEntry 0 0x0000_00FF_FFFF_FFFF,
   prtEntry 2 0x0000_03FF_FFFF_FFFF,
   prtEntry 0 0x0000_0FFF_FFFF_FFFF,
   prtEntry 2 0x0000_3FFF_FFFF_FFFF,
   prtEntry 0 0x0000_FFFF_FFFF_FFFF,
   prtEntry 2 0x0003_FFFF_FFFF_FFFF,
   prtEntry 0 0x000F_FFFF_FFFF_FFFF,
   prtEntry 2 0x003F_FFFF_FFFF_FFFF,
   prtEntry 0 0x00FF_FFFF_FFFF_FFFF,
   prtEntry 2 0x03FF_FFFF_FFFF_FFFF,
   prtEntry 0 0x0FFF_FFFF_FFFF_FFFF,
   prtEntry 2 0x3FFF_FFFF_FFFF_FFFF,
   prtEntry 0 0xFFFF_FFFF_FFFF_FFFF]

/-- The entries of column (1, 1), m = 1 to 16 (41_tables.md R120). -/
def prtColumn11a : List (BitVec 66) :=
  [prtEntry 0 0x0000_0000_0000_0002,
   prtEntry 0 0x0000_0000_0000_000A,
   prtEntry 0 0x0000_0000_0000_002A,
   prtEntry 0 0x0000_0000_0000_00AA,
   prtEntry 0 0x0000_0000_0000_02AA,
   prtEntry 0 0x0000_0000_0000_0AAA,
   prtEntry 0 0x0000_0000_0000_2AAA,
   prtEntry 0 0x0000_0000_0000_AAAA,
   prtEntry 0 0x0000_0000_0002_AAAA,
   prtEntry 0 0x0000_0000_000A_AAAA,
   prtEntry 0 0x0000_0000_002A_AAAA,
   prtEntry 0 0x0000_0000_00AA_AAAA,
   prtEntry 0 0x0000_0000_02AA_AAAA,
   prtEntry 0 0x0000_0000_0AAA_AAAA,
   prtEntry 0 0x0000_0000_2AAA_AAAA,
   prtEntry 0 0x0000_0000_AAAA_AAAA]

/-- The entries of column (1, 1), m = 17 to 32 (41_tables.md R120). -/
def prtColumn11b : List (BitVec 66) :=
  [prtEntry 0 0x0000_0002_AAAA_AAAA,
   prtEntry 0 0x0000_000A_AAAA_AAAA,
   prtEntry 0 0x0000_002A_AAAA_AAAA,
   prtEntry 0 0x0000_00AA_AAAA_AAAA,
   prtEntry 0 0x0000_02AA_AAAA_AAAA,
   prtEntry 0 0x0000_0AAA_AAAA_AAAA,
   prtEntry 0 0x0000_2AAA_AAAA_AAAA,
   prtEntry 0 0x0000_AAAA_AAAA_AAAA,
   prtEntry 0 0x0002_AAAA_AAAA_AAAA,
   prtEntry 0 0x000A_AAAA_AAAA_AAAA,
   prtEntry 0 0x002A_AAAA_AAAA_AAAA,
   prtEntry 0 0x00AA_AAAA_AAAA_AAAA,
   prtEntry 0 0x02AA_AAAA_AAAA_AAAA,
   prtEntry 0 0x0AAA_AAAA_AAAA_AAAA,
   prtEntry 0 0x2AAA_AAAA_AAAA_AAAA,
   prtEntry 0 0xAAAA_AAAA_AAAA_AAAA]


/-- PRT, the printed contents, column (0,0) first (41_tables.md R120). -/
def prt : Rom 7 66 where
  cells := prtColumn00a ++ prtColumn00b ++ prtColumn01a ++ prtColumn01b ++ prtColumn10a ++ prtColumn10b ++ prtColumn11a ++ prtColumn11b
  full := by
    simp only [List.length_append]
    simp only [prtColumn00a, prtColumn00b, prtColumn01a, prtColumn01b, prtColumn10a, prtColumn10b, prtColumn11a, prtColumn11b,
      List.length_cons, List.length_nil, Nat.reduceAdd, Nat.reducePow]

/-! The closed form (41_tables.md R119), which ENCD computes. -/

/-- The digit of (bx, by) in S0 (41_tables.md R111, R119). -/
def topDigit (bx bY : Bit) : Digit :=
  match bx, bY with
  | 0#1, 0#1 => 0
  | 0#1, 1#1 => 1
  | 1#1, 1#1 => 2
  | 1#1, 0#1 => 3

/-- A repunit scaled by a digit, with no multiply: 0, A, A << 1, A | A << 1 (42_encoder_direct.md R148). -/
def scale (d : Digit) (a : Index) : Index :=
  match d with
  | 0#2 => 0
  | 1#2 => a
  | 2#2 => a <<< 1
  | 3#2 => a ||| (a <<< 1)

/-- The state after m levels of the same symbol d from S0: S1 or S2 for d = 0 or 3 and m odd, else S0 (41_tables.md R116, R119). -/
def runState (d : Digit) (m : Nat) : AutomatonState :=
  if d = 0 ∧ m % 2 = 1 then S1
  else if d = 3 ∧ m % 2 = 1 then S2
  else S0

/-- `prt_closed(bx, by, m)`: the partial index and the state (41_tables.md R119). -/
def prtClosed (bx bY : Bit) (m : Nat) : Index × AutomatonState :=
  (scale (topDigit bx bY) (repunit m), runState (topDigit bx bY) m)

end Sys2Proof.Machine
end

