-- ==== Sys2Proof/Machine/Encoder.lean ====
section
/-! DEFINITION. The encoder in its two variants, step by step over its working registers (42_encoder_direct.md R140 to R145;
43_encoder_lut.md R160, R161). -/

namespace Sys2Proof.Machine

/-- The working copy of a coordinate: its complement masked to k bits where its reflection bit is set (42_encoder_direct.md R141). -/
def workingCopy (x : Coord) (k : Order) (bit : Bit) : Coord :=
  if bit = 1 then ~~~x &&& ones k.toNat else x

/-- Step 1, the top-level reflection (42_encoder_direct.md R141). -/
def reflect (x y : Coord) (k : Order) (w : EncRegs) : EncRegs :=
  { w with
    bitX := bitAt x (k.toNat - 1)
    wx := workingCopy x k (bitAt x (k.toNat - 1))
    bitY := bitAt y (k.toNat - 1)
    wy := workingCopy y k (bitAt y (k.toNat - 1)) }

/-- Step 2, the start position: `sp <- msb32(max(wx, wy))` (42_encoder_direct.md R142). -/
def startPos (w : EncRegs) : EncRegs :=
  { w with sp := BitVec.ofInt 7 (msb32 (maxCoord w.wx w.wy)) }

/-- Step 2, the number of uniform levels: `m <- k - sp - 1`, over the signed sp (42_encoder_direct.md R142, R146). -/
def levelCount (k : Order) (w : EncRegs) : EncRegs :=
  { w with m := BitVec.ofInt 6 ((k.toNat : Int) - w.sp.toInt - 1) }

/-- Step 3 of ENCD: the partial index and state by arithmetic, no table read (42_encoder_direct.md R143). -/
def seedDirect (w : EncRegs) : EncRegs :=
  { w with
    acc := (prtClosed w.bitX w.bitY w.m.toNat).1
    st := (prtClosed w.bitX w.bitY w.m.toNat).2 }

/-- Step 3 of ENCL: the partial index and state from the PRT (43_encoder_lut.md R161). -/
def seedTable (w : EncRegs) : EncRegs :=
  { w with
    acc := prtPartial (romRead prt (prtIndex w.bitX w.bitY w.m))
    st := prtState (romRead prt (prtIndex w.bitX w.bitY w.m)) }

/-- Step 4 at bit position i: one level of the encode table, on the original X and Y (42_encoder_direct.md R144). -/
def encLevel (x y : Coord) (i : Nat) (w : EncRegs) : EncRegs :=
  { w with
    acc := (w.acc <<< 2) ||| (encDigit (romRead encTT (encIndex w.st (bitAt x i) (bitAt y i)))).setWidth 64
    st := encNext (romRead encTT (encIndex w.st (bitAt x i) (bitAt y i)))
    i := w.i - 1 }

/-- Step 4, the explicit levels n−1 down to 0 (42_encoder_direct.md R144). -/
def encLevels (x y : Coord) : Nat → EncRegs → EncRegs
  | 0, w => w
  | i + 1, w => encLevels x y i (encLevel x y i w)

/-- Step 4: `i` starts at `sp` and counts down to −1 (42_encoder_direct.md R144). -/
def explicitLevels (x y : Coord) (w : EncRegs) : EncRegs :=
  encLevels x y (w.sp.toInt + 1).toNat { w with i := w.sp }

/-- Steps 1 and 2, the same in both variants (42_encoder_direct.md R141, R142). -/
def encFront (x y : Coord) (k : Order) (w : EncRegs) : EncRegs :=
  levelCount k (startPos (reflect x y k w))

/-- The working registers at the end of ENCD (42_encoder_direct.md R140). -/
def runDirect (x y : Coord) (k : Order) (w : EncRegs) : EncRegs :=
  explicitLevels x y (seedDirect (encFront x y k w))

/-- The working registers at the end of ENCL (43_encoder_lut.md R160). -/
def runTable (x y : Coord) (k : Order) (w : EncRegs) : EncRegs :=
  explicitLevels x y (seedTable (encFront x y k w))

/-- ENCD: the checks, then the five steps; step 5 returns the accumulated index (42_encoder_direct.md R140, R145). -/
def execEncd (x y : Coord) (k : Order) (s : State) : Host.Outcome State Fault Refusal :=
  match checkEncode x y k with
  | some f => raiseFault f s
  | none => deliver (.value (runDirect x y k s.enc).acc) s

/-- ENCL: as ENCD but for step 3 (43_encoder_lut.md R160). -/
def execEncl (x y : Coord) (k : Order) (s : State) : Host.Outcome State Fault Refusal :=
  match checkEncode x y k with
  | some f => raiseFault f s
  | none => deliver (.value (runTable x y k s.enc).acc) s

end Sys2Proof.Machine
end

