-- ==== Sys2Proof/Machine/HilbertDecoder.lean ====
section
/-! DEFINITION. The decoder, step by step over its working registers (44_decoder.md R170 to R176, R179). -/

namespace Sys2Proof.Machine

/-- Step 1, the quadrant: `top <- index[2k-1 : 2k-2]` (44_decoder.md R171). -/
def classify (v : Index) (k : Order) (w : DecRegs) : DecRegs :=
  { w with top := digitAt v (k.toNat - 1) }

/-- `v` of the scan for top = 1: `(index ^ (index << 1)) & M` (44_decoder.md R179). -/
def pairsLeft (v : Index) (k : Order) : Index := (v ^^^ (v <<< 1)) &&& indexMask k.toNat

/-- `v` of the scan for top = 2: `(index ^ (index >> 1)) & M` (44_decoder.md R179). -/
def pairsRight (v : Index) (k : Order) : Index := (v ^^^ (v >>> 1)) &&& indexMask k.toNat

/-- The bit scan of the quadrant, `p` for the quadrants 0 and 3, `q` for 1 and 2 (44_decoder.md R179). -/
def scanRun (v : Index) (k : Order) (w : DecRegs) : DecRegs :=
  match w.top with
  | 0#2 => { w with p := BitVec.ofInt 7 (msb64 v) }
  | 1#2 => { w with q := BitVec.ofInt 7 (msb64 (~~~(pairsLeft v k) &&& indexMask k.toNat)) }
  | 2#2 => { w with q := BitVec.ofInt 7 (msb64 (~~~(pairsRight v k) &&& indexMask k.toNat)) }
  | 3#2 => { w with p := BitVec.ofInt 7 (msb64 (~~~v &&& indexMask k.toNat)) }

/-- The run length from the scan (44_decoder.md R179). -/
def runLength (k : Order) (w : DecRegs) : DecRegs :=
  match w.top with
  | 0#2 => { w with run := BitVec.ofInt 6 ((k.toNat : Int) - 1 - halfFloor w.p.toInt) }
  | 1#2 => { w with run := BitVec.ofInt 6 ((k.toNat : Int) - halfFloor (w.q.toInt + 1)) }
  | 2#2 => { w with run := BitVec.ofInt 6 ((k.toNat : Int) - 1 - halfFloor w.q.toInt) }
  | 3#2 => { w with run := BitVec.ofInt 6 ((k.toNat : Int) - 1 - halfFloor w.p.toInt) }

/-- The state of a quadrant after the run: S1 or S2 for the quadrants 0 and 3 when the run is odd, else S0 (44_decoder.md R173). -/
def quadrantState (top : Digit) (run : Nat) : AutomatonState :=
  match top with
  | 0#2 => if run % 2 = 1 then S1 else S0
  | 1#2 => S0
  | 2#2 => S0
  | 3#2 => if run % 2 = 1 then S2 else S0

/-- The seeds and the initial state; every quadrant writes all three (44_decoder.md R173, R178). -/
def seedQuadrant (w : DecRegs) : DecRegs :=
  match w.top with
  | 0#2 => { w with x := 0, y := 0, st := quadrantState w.top w.run.toNat }
  | 1#2 => { w with x := 0, y := ones w.run.toNat, st := quadrantState w.top w.run.toNat }
  | 2#2 => { w with x := ones w.run.toNat, y := ones w.run.toNat, st := quadrantState w.top w.run.toNat }
  | 3#2 => { w with x := ones w.run.toNat, y := 0, st := quadrantState w.top w.run.toNat }

/-- Step 2 at digit j: one level of the decode table (44_decoder.md R175). -/
def decDigit (v : Index) (j : Nat) (w : DecRegs) : DecRegs :=
  { w with
    x := (w.x <<< 1) ||| (decBitX (romRead decTT (decIndex w.st (digitAt v j)))).setWidth 32
    y := (w.y <<< 1) ||| (decBitY (romRead decTT (decIndex w.st (digitAt v j)))).setWidth 32
    st := decNext (romRead decTT (decIndex w.st (digitAt v j)))
    j := w.j - 1 }

/-- Step 2, the explicit digits n−1 down to 0 (44_decoder.md R175). -/
def decDigits (v : Index) : Nat → DecRegs → DecRegs
  | 0, w => w
  | j + 1, w => decDigits v j (decDigit v j w)

/-- Step 2: `j` starts at k − run − 1, the remaining count less one, and counts down to −1 (44_decoder.md R174, R175). -/
def explicitDigits (v : Index) (k : Order) (w : DecRegs) : DecRegs :=
  decDigits v (k.toNat - w.run.toNat) { w with j := BitVec.ofInt 6 ((k.toNat : Int) - (w.run.toNat : Int) - 1) }

/-- Step 1: quadrant, run length and seeds (44_decoder.md R171 to R173). -/
def decFront (v : Index) (k : Order) (w : DecRegs) : DecRegs :=
  seedQuadrant (runLength k (scanRun v k (classify v k w)))

/-- The working registers at the end of DEC (44_decoder.md R170). -/
def runDecode (v : Index) (k : Order) (w : DecRegs) : DecRegs :=
  explicitDigits v k (decFront v k w)

/-- DEC: the checks, then steps 1 and 2; step 3 returns (X, Y) (44_decoder.md R170, R176). -/
def execDec (v : Index) (k : Order) (s : State) : Host.Outcome State Fault Refusal :=
  match checkDecode v k with
  | some f => raiseFault f s
  | none => deliver (.cell (runDecode v k s.dec).x (runDecode v k s.dec).y) s

end Sys2Proof.Machine
end

