-- ==== Sys2Proof/Machine/Reserved.lean ====
section
/-! DEFINITION. The reserved codes: a request with one completes with IllegalOp (30_encoding.md R76, 60_exceptions.md R192). -/

namespace Sys2Proof.Machine

/-- `op` = 5 (60_exceptions.md R192). -/
def execReserved5 (s : State) : Host.Outcome State Fault Refusal := raiseFault .illegalOp s

/-- `op` = 6 (60_exceptions.md R192). -/
def execReserved6 (s : State) : Host.Outcome State Fault Refusal := raiseFault .illegalOp s

/-- `op` = 7 (60_exceptions.md R192). -/
def execReserved7 (s : State) : Host.Outcome State Fault Refusal := raiseFault .illegalOp s

end Sys2Proof.Machine
end

