-- ==== Sys2Proof/Machine/Dispatch.lean ====
section
/-! DEFINITION. One arm per operation: exec(req) of 30_encoding.md R80, on the decoded request. -/

namespace Sys2Proof.Machine

def exec (i : Instr) (s : State) : Host.Outcome State Fault Refusal :=
  match i with
  | .msb32 x => Sys2Proof.Machine.execMsb32 x s
  | .msb64 v => Sys2Proof.Machine.execMsb64 v s
  | .encd x y k => Sys2Proof.Machine.execEncd x y k s
  | .encl x y k => Sys2Proof.Machine.execEncl x y k s
  | .dec v k => Sys2Proof.Machine.execDec v k s
  | .reserved5 => Sys2Proof.Machine.execReserved5 s
  | .reserved6 => Sys2Proof.Machine.execReserved6 s
  | .reserved7 => Sys2Proof.Machine.execReserved7 s

end Sys2Proof.Machine
end

