-- ==== Sys2Proof/Machine/Step.lean ====
section
/-! DEFINITION. One step of the machine: the host's next turn, or the unit's step when the host waits (10_state.md R22, R36; log entry 4). -/

namespace Sys2Proof.Machine

/-- The unit's step: `complete` in phase Busy, the only phase in which it has one (10_state.md R22; log entry 13). -/
def unitStep (s : State) : Host.Outcome State Fault Refusal :=
  match s.phase with
  | .idle => .next s
  | .busy => exec (fetch s) s
  | .done => .next s

/-- One step. The head of `turns` says whose it is; an empty list is a host that waits (log entry 4). -/
def step (s : State) : Host.Outcome State Fault Refusal :=
  match s.turns with
  | [] => unitStep s
  | .wait :: rest => unitStep { s with turns := rest }
  | .submit q :: rest => .next (hostMove (.submit q) { s with turns := rest })
  | .take :: rest => .next (hostMove .take { s with turns := rest })
  | .reset :: rest => .next (hostMove .reset { s with turns := rest })

/-- The state with a request word latched and the unit about to run it: it stands for a `submit`, without the host's record of it
(log entry 6). -/
def State.withFetchWord (s : State) (nbits w : Nat) : State :=
  { s with
    phase := .busy
    req := Request.unpack (BitVec.ofNat 137 (tableWord nbits w))
    turns := .wait :: s.turns }

end Sys2Proof.Machine
end

