-- ==== Sys2Proof/Machine/Reference.lean ====
section
/-! DEFINITION. The reference automaton, which skips nothing and scans nothing, and the run length as it is defined
(41_tables.md R118, R122; 44_decoder.md R172). No meaning calls these: claims are stated in terms of them. -/

namespace Sys2Proof.Machine

/-- n levels with the same input (bx, by) (41_tables.md R118). -/
def prtIterFrom (bx bY : Bit) : Nat → Index × AutomatonState → Index × AutomatonState
  | 0, a => a
  | n + 1, a =>
    let e := romRead encTT (encIndex a.2 bx bY)
    prtIterFrom bx bY n ((a.1 <<< 2) ||| (encDigit e).setWidth 64, encNext e)

/-- `prt_iter(bx, by, m)`: the basic table iterated m times from S0 (41_tables.md R118). -/
def prtIter (bx bY : Bit) (m : Nat) : Index × AutomatonState := prtIterFrom bx bY m (0, S0)

/-- The reference encoder's levels n−1 down to 0 (41_tables.md R122). -/
def refEncodeFrom (x y : Coord) : Nat → Index × AutomatonState → Index × AutomatonState
  | 0, a => a
  | i + 1, a =>
    let e := romRead encTT (encIndex a.2 (bitAt x i) (bitAt y i))
    refEncodeFrom x y i ((a.1 <<< 2) ||| (encDigit e).setWidth 64, encNext e)

/-- `ref_encode(X, Y, k)` (41_tables.md R122). -/
def refEncode (x y : Coord) (k : Nat) : Index := (refEncodeFrom x y k (0, S0)).1

/-- The reference decoder's digits n−1 down to 0 (41_tables.md R122). -/
def refDecodeFrom (v : Index) : Nat → Coord × Coord × AutomatonState → Coord × Coord × AutomatonState
  | 0, a => a
  | j + 1, a =>
    let e := romRead decTT (decIndex a.2.2 (digitAt v j))
    refDecodeFrom v j
      ((a.1 <<< 1) ||| (decBitX e).setWidth 32, (a.2.1 <<< 1) ||| (decBitY e).setWidth 32, decNext e)

/-- `ref_decode(index, k)` (41_tables.md R122). -/
def refDecode (v : Index) (k : Nat) : Coord × Coord :=
  ((refDecodeFrom v k (0, 0, S0)).1, (refDecodeFrom v k (0, 0, S0)).2.1)

/-- Digits k−1 down to k−r of v all equal the top digit (44_decoder.md R172). -/
def leadingRun (v : Index) (k r : Nat) : Prop :=
  ∀ j, k - r ≤ j → j ≤ k - 1 → digitAt v j = digitAt v (k - 1)

/-- r is the run length of v at order k: the largest r in 1..k whose leading digits all equal the top digit (44_decoder.md R172). -/
def isRunLength (v : Index) (k r : Nat) : Prop :=
  1 ≤ r ∧ r ≤ k ∧ leadingRun v k r ∧ ∀ r', 1 ≤ r' → r' ≤ k → leadingRun v k r' → r' ≤ r

end Sys2Proof.Machine
end

