-- ==== Sys2Proof/Safety.lean ====
section
/-! DEFINITION. The terms the claims use: valid operands, the answer the reference automaton gives, what a response says, the frame
of an operation, and the invariant of a run. -/

namespace Sys2Proof.Safety

open Sys2Proof.Machine

/-- 1 ≤ k ≤ 32 (00_scope.md R4). -/
abbrev OrderOk (k : Order) : Prop := 1 ≤ k.toNat ∧ k.toNat ≤ 32

/-- A valid (X, Y, k): 1 ≤ k ≤ 32 and 0 ≤ X, Y < 2^k (00_scope.md R9). -/
abbrev PointOk (x y : Coord) (k : Order) : Prop := OrderOk k ∧ x.toNat < 2 ^ k.toNat ∧ y.toNat < 2 ^ k.toNat

/-- A valid (index, k): 1 ≤ k ≤ 32 and 0 ≤ index < 2^(2k) (60_exceptions.md R190). -/
abbrev IndexOk (v : Index) (k : Order) : Prop := OrderOk k ∧ v.toNat < 2 ^ (2 * k.toNat)

/-- 2^k − 1 as a coordinate (42_encoder_direct.md R146). -/
abbrev topCoord (k : Order) : Coord := BitVec.ofNat 32 (2 ^ k.toNat - 1)

/-- The response says exactly this answer; the fields the answer does not name may hold anything (30_encoding.md R72, R75). -/
def carries (t : Response) : Answer → Prop
  | .value r => t.status = .ok ∧ t.r = r
  | .cell rx ry => t.status = .ok ∧ t.rx = rx ∧ t.ry = ry
  | .fault f => t.status = .fault f

/-- The operation writes `r` when it succeeds (30_encoding.md R72, column "writes fields"). -/
def writesR : Instr → Bool
  | .msb32 _ => true
  | .msb64 _ => true
  | .encd _ _ _ => true
  | .encl _ _ _ => true
  | .dec _ _ => false
  | .reserved5 => false
  | .reserved6 => false
  | .reserved7 => false

/-- The operation writes `rx` and `ry` when it succeeds (30_encoding.md R72, column "writes fields"). -/
def writesCell : Instr → Bool
  | .msb32 _ => false
  | .msb64 _ => false
  | .encd _ _ _ => false
  | .encl _ _ _ => false
  | .dec _ _ => true
  | .reserved5 => false
  | .reserved6 => false
  | .reserved7 => false

/-- Two responses to the operation i are equal in every field it writes (00_scope.md R5; 30_encoding.md R72, R73). -/
def agreeOn (i : Instr) (t u : Response) : Prop :=
  t.status = u.status ∧
    (t.status = .ok → (writesR i = true → t.r = u.r) ∧ (writesCell i = true → t.rx = u.rx ∧ t.ry = u.ry))

/-- p is the position of the highest set bit of n (40_bitscan.md R100). -/
def isMsb {w : Nat} (n : BitVec w) (p : Nat) : Prop :=
  p < w ∧ n.getLsbD p = true ∧ ∀ j, p < j → n.getLsbD j = false

/-- The bit-scan result as the response shows it, from the definition by floor(log2 n) (40_bitscan.md R104; 30_encoding.md R75). -/
def refScan (n : Nat) : Index := if n = 0 then BitVec.allOnes 64 else BitVec.ofNat 64 (Nat.log2 n)

/-- The answer of an operation from the reference functions, which scan no working register and skip no level
(40_bitscan.md R104; 41_tables.md R122; 60_exceptions.md R197). -/
def refAnswer (i : Instr) : Answer :=
  match i with
  | .msb32 x => .value (refScan x.toNat)
  | .msb64 v => .value (refScan v.toNat)
  | .encd x y k =>
    if ¬ OrderOk k then .fault .orderRange
    else if ¬ x.toNat < 2 ^ k.toNat then .fault .xRange
    else if ¬ y.toNat < 2 ^ k.toNat then .fault .yRange
    else .value (refEncode x y k.toNat)
  | .encl x y k =>
    if ¬ OrderOk k then .fault .orderRange
    else if ¬ x.toNat < 2 ^ k.toNat then .fault .xRange
    else if ¬ y.toNat < 2 ^ k.toNat then .fault .yRange
    else .value (refEncode x y k.toNat)
  | .dec v k =>
    if ¬ OrderOk k then .fault .orderRange
    else if ¬ v.toNat < 2 ^ (2 * k.toNat) then .fault .indexRange
    else .cell (refDecode v k.toNat).1 (refDecode v k.toNat).2
  | .reserved5 => .fault .illegalOp
  | .reserved6 => .fault .illegalOp
  | .reserved7 => .fault .illegalOp

/-- What no operation changes: the host's turns and its record. The block has no other register to frame (10_state.md R21, R28 to
R33), its tables are constants, and `req`, `rsp` and the working registers are unspecified where the operation does not write them
(10_state.md R23, R24, R27). -/
def frame (s t : State) : Prop := t.turns = s.turns ∧ t.sent = s.sent ∧ t.taken = s.taken

/-- The operation has completed with this answer: the response carries it and the phase is Done (10_state.md R22). That it leaves the
host's side as it was is `frame`. -/
def completesWith (t : State) (a : Answer) : Prop := carries t.rsp a ∧ t.phase = .done

/-- The host makes no move in this step, so it is the unit's; `rest` is what is left of the host's turns. -/
def hostWaits (s : State) (rest : List HostMove) : Prop :=
  s.turns = .wait :: rest ∨ (s.turns = [] ∧ rest = [])

/-- Both encoder variants complete with the index v (42_encoder_direct.md R140, 43_encoder_lut.md R160). -/
def encodesTo (x y : Coord) (k : Order) (s : State) (v : Index) : Prop :=
  (∃ t, exec (.encd x y k) s = .next t ∧ completesWith t (.value v)) ∧
    (∃ t, exec (.encl x y k) s = .next t ∧ completesWith t (.value v))

/-- The decoder completes with the cell (x, y) (44_decoder.md R170). -/
def decodesTo (v : Index) (k : Order) (s : State) (x y : Coord) : Prop :=
  ∃ t, exec (.dec v k) s = .next t ∧ completesWith t (.cell x y)

/-- Both encoder variants complete with the fault f and no result (60_exceptions.md R198). -/
def encodeFaults (x y : Coord) (k : Order) (s : State) (f : FaultCode) : Prop :=
  (∃ t, exec (.encd x y k) s = .next t ∧ completesWith t (.fault f)) ∧
    (∃ t, exec (.encl x y k) s = .next t ∧ completesWith t (.fault f))

/-- The decoder completes with the fault f and no result (60_exceptions.md R198). -/
def decodeFaults (v : Index) (k : Order) (s : State) (f : FaultCode) : Prop :=
  ∃ t, exec (.dec v k) s = .next t ∧ completesWith t (.fault f)

/-- A response answers a request as the reference automaton does. -/
def answers (q : Request) (t : Response) : Prop := carries t (refAnswer (decodeRequest q))

/-- The invariant of a run: the responses taken, and in Done the one waiting, are the reference answers to the accepted requests,
one each, in order; in Busy the latched request is the one accepted last (00_scope.md R6; 20_memory.md R60; 70_reset_and_hazards.md R228). -/
def History (s : State) : Prop :=
  match s.phase with
  | .idle => List.Forall₂ answers s.sent s.taken
  | .busy => ∃ qs, s.sent = qs ++ [s.req] ∧ List.Forall₂ answers qs s.taken
  | .done => List.Forall₂ answers s.sent (s.taken ++ [s.rsp])

end Sys2Proof.Safety
end

