-- ==== Sys2Proof/Certificates/Slice0/Obligations.lean ====
section
/-! DEFINITION. The statements for the provers. Each docstring names the rules of spec/ it formalises. Free values (log entries 2, 3)
and reset values (log entry 1) are in no statement. -/

open Sys2Proof Sys2Proof.Machine Sys2Proof.Safety

/-! Encoding. -/

/-- R70, R72, R78: no bit of an operand is lost between an instruction and its request word. -/
def Obligations.DecodeOfEncode : Prop := ∀ i : Instr, decode (encode i) = i

/-- R70: the packed integer, the position of every field, and that every word is the packing of its fields. -/
def Obligations.RequestWordFormat : Prop :=
  (∀ q : Request,
    q.pack.toNat = (q.op.toNat ||| q.k.toNat <<< 3 ||| q.x.toNat <<< 9 ||| q.y.toNat <<< 41 ||| q.v.toNat <<< 73) ∧
    q.pack.extractLsb' 0 3 = q.op ∧ q.pack.extractLsb' 3 6 = q.k ∧ q.pack.extractLsb' 9 32 = q.x ∧
    q.pack.extractLsb' 41 32 = q.y ∧ q.pack.extractLsb' 73 64 = q.v ∧ Request.unpack q.pack = q) ∧
  (∀ w : ReqWord, (Request.unpack w).pack = w)

/-- R71: the packed response and the position of every field. -/
def Obligations.ResponseWordFormat : Prop :=
  ∀ t : Response,
    t.pack.toNat = (t.status.code.toNat ||| t.r.toNat <<< 3 ||| t.rx.toNat <<< 67 ||| t.ry.toNat <<< 99) ∧
    t.pack.extractLsb' 0 3 = t.status.code ∧ t.pack.extractLsb' 3 64 = t.r ∧
    t.pack.extractLsb' 67 32 = t.rx ∧ t.pack.extractLsb' 99 32 = t.ry

/-- R72, R80: `op` alone selects the operation, which gets the fields it reads and no other. -/
def Obligations.OpSelectsOperation : Prop :=
  ∀ q : Request,
    (q.op = 0 → decodeRequest q = .msb32 q.x) ∧ (q.op = 1 → decodeRequest q = .msb64 q.v) ∧
    (q.op = 2 → decodeRequest q = .encd q.x q.y q.k) ∧ (q.op = 3 → decodeRequest q = .encl q.x q.y q.k) ∧
    (q.op = 4 → decodeRequest q = .dec q.v q.k) ∧ (q.op = 5 → decodeRequest q = .reserved5) ∧
    (q.op = 6 → decodeRequest q = .reserved6) ∧ (q.op = 7 → decodeRequest q = .reserved7)

/-- Words written out from the fields of R70 (and printed in 95_test_vectors.md section 7) decode to the operations they stand for. -/
def Obligations.SampleWordsDecode : Prop :=
  decode 0x00000000000000000000000000000025800 = .msb32 300 ∧
  decode 0x00000000000073942000000000000000001 = .msb64 236705 ∧
  decode 0x000000000000000000000000E0000000622 = .encd 3 7 4 ∧
  decode 0x000000000000000000000000E0000000623 = .encl 3 7 4 ∧
  decode 0x00000000000000060000000000000000024 = .dec 48 4 ∧
  decode 0x00000000000000000000000000000000007 = .reserved7

/-- R73: two requests that differ only in fields their operation does not read give equal responses, in any two states. -/
def Obligations.IgnoredFieldsDoNotMatter : Prop :=
  ∀ (q q' : Request) (s s' : State), q.op = q'.op →
    (q.op = 0 → q.x = q'.x) → (q.op = 1 → q.v = q'.v) →
    (q.op = 2 ∨ q.op = 3 → q.x = q'.x ∧ q.y = q'.y ∧ q.k = q'.k) →
    (q.op = 4 → q.v = q'.v ∧ q.k = q'.k) →
    ∃ t t', exec (decodeRequest q) s = .next t ∧ exec (decodeRequest q') s' = .next t' ∧
      agreeOn (decodeRequest q) t.rsp t'.rsp

/-! The machine. -/

/-- R22, R62: in phase Busy a step is exec of the latched request's operation. The rest is the model's choice: that the unit steps when
the host waits, its turn being spent (log entry 4); and that `withFetchWord` stands for a submit and latches the word
w mod 2^nbits (log entry 6), of which the low 137 bits are the request (log entry 12). -/
def Obligations.StepRunsTheLatchedRequest : Prop :=
  (∀ (s : State) (rest : List HostMove), s.phase = .busy → hostWaits s rest →
    step s = exec (decodeRequest s.req) { s with turns := rest }) ∧
  (∀ (s : State) (nbits w : Nat),
    step (s.withFetchWord nbits w) =
      exec (decode (BitVec.ofNat 137 (w % 2 ^ nbits)))
        { s with phase := .busy, req := Request.unpack (BitVec.ofNat 137 (w % 2 ^ nbits)) })

/-- R22: the three transitions, and that `submit` and `take` elsewhere are none. The rest is the model's choice: the turns and the
host's record (log entries 4, 5), and that a waiting step in Idle or Done leaves the state as it is but for the spent turn
(log entry 13). -/
def Obligations.InterfaceTransitions : Prop :=
  ∀ (s : State) (rest : List HostMove),
    (∀ q, s.turns = .submit q :: rest → ∃ t, step s = .next t ∧
      (s.phase = .idle → t.req = q ∧ t.phase = .busy ∧ t.sent = s.sent ++ [q] ∧ t.taken = s.taken ∧ t.turns = rest) ∧
      (s.phase ≠ .idle → t = { s with turns := rest })) ∧
    (s.turns = .take :: rest → ∃ t, step s = .next t ∧
      (s.phase = .done → t.taken = s.taken ++ [s.rsp] ∧ t.phase = .idle ∧ t.sent = s.sent ∧ t.turns = rest) ∧
      (s.phase ≠ .done → t = { s with turns := rest })) ∧
    (hostWaits s rest → ∃ t, step s = .next t ∧
      (s.phase = .busy → answers s.req t.rsp ∧ t.phase = .done ∧ t.sent = s.sent ∧ t.taken = s.taken ∧ t.turns = rest) ∧
      (s.phase ≠ .busy → t = { s with turns := rest }))

/-- R221: reset abandons a pending request or response, produces no response, and leaves phase Idle. The turns and the host's record
are the model's choice (log entries 4, 5). -/
def Obligations.ResetAbandons : Prop :=
  ∀ (s : State) (rest : List HostMove), s.turns = .reset :: rest →
    ∃ t, step s = .next t ∧ t.phase = .idle ∧ t.taken = s.taken ∧ t.turns = rest ∧
      (s.phase = .idle → t.sent = s.sent) ∧ (s.phase ≠ .idle → t.sent = s.sent.dropLast)

/-- R220, R22: the only events that change `phase` are submit, complete, take and reset, each from its own phase. The turns are the
model's choice (log entry 4). -/
def Obligations.OnlyTheseEventsChangePhase : Prop :=
  ∀ s t : State, step s = .next t → t.phase ≠ s.phase →
    (s.phase = .idle ∧ t.phase = .busy ∧ ∃ q rest, s.turns = .submit q :: rest ∧ t.req = q) ∨
    (s.phase = .busy ∧ t.phase = .done ∧ ∃ rest, hostWaits s rest) ∨
    (s.phase = .done ∧ t.phase = .idle ∧ ∃ rest, s.turns = .take :: rest) ∨
    (t.phase = .idle ∧ ∃ rest, s.turns = .reset :: rest)

/-- R35, R220: reset leaves phase Idle. -/
def Obligations.ResetIsIdle : Prop := State.reset.phase = .idle

/-- R227, R211: `complete` is enabled in phase Busy, whatever the request holds, and the unit is never stuck. The rest is the model's
choice: that the unit steps when the host waits (log entry 4), and that a step in Idle or Done in which neither agent has a move
answers next (log entry 13). -/
def Obligations.StepAlwaysAnswers : Prop :=
  (∀ s : State, ∃ t, step s = .next t) ∧
  (∀ (s : State) (rest : List HostMove), s.phase = .busy → hostWaits s rest → ∃ t, step s = .next t ∧ t.phase = .done)

/-- R6: an accepted request gets exactly one response, and it is the one the reference automaton gives. The turns and the host's record
are the model's choice (log entries 4, 5). -/
def Obligations.OneRequestOneResponse : Prop :=
  ∀ (s : State) (q : Request) (rest : List HostMove),
    s.phase = .idle → s.turns = .submit q :: .wait :: .take :: rest →
    ∃ t u, Host.Core.run core 3 s = .next t ∧ t.phase = .idle ∧ t.turns = rest ∧ t.sent = s.sent ++ [q] ∧
      t.taken = s.taken ++ [u] ∧ answers q u

/-- R225: two requests give the same responses in either order. The turns and the host's record are the model's choice (log entries
4, 5). -/
def Obligations.RequestsCommute : Prop :=
  ∀ (s : State) (a b : Request), s.phase = .idle →
    ∃ t u ta tb ua ub,
      Host.Core.run core 6 { s with turns := [.submit a, .wait, .take, .submit b, .wait, .take] } = .next t ∧
      Host.Core.run core 6 { s with turns := [.submit b, .wait, .take, .submit a, .wait, .take] } = .next u ∧
      t.taken = s.taken ++ [ta, tb] ∧ u.taken = s.taken ++ [ub, ua] ∧
      agreeOn (decodeRequest a) ta ua ∧ agreeOn (decodeRequest b) tb ub

/-- R5, R27: the response to an operation depends on nothing that was in the machine: not the phase, the latches, the working
registers or the history. -/
def Obligations.ResponseDependsOnRequestAlone : Prop :=
  ∀ (i : Instr) (s s' : State), ∃ t t', exec i s = .next t ∧ exec i s' = .next t' ∧ agreeOn i t.rsp t'.rsp

/-- R22, R198: whatever an operation's outcome, it moves to Done. That it leaves the host's side as it was is about the model's own
fields (log entries 4, 5). -/
def Obligations.ExecFrame : Prop := ∀ (i : Instr) (s t : State), exec i s = .next t → t.phase = .done ∧ frame s t

/-- R6, R60, R228: every step keeps the history of a run in order and answered. The turns and the record are the model's choice (log
entries 4, 5), as is what a step does when neither agent has a move (log entry 13). -/
def Obligations.HistoryKept : Prop := ∀ s t : State, History s → step s = .next t → History t

/-- The invariant of `HistoryKept` holds at reset. -/
def Obligations.HistoryAtReset : Prop := History State.reset

/-- R101, R102, R104 (the scans, by floor(log2 n) or the sentinel), R122 (the encoders and the decoder) and R197 (the first failing
check): for every operation and every operand, valid or not, the response is the reference answer. -/
def Obligations.EveryOperationGivesReferenceAnswer : Prop :=
  ∀ (i : Instr) (s : State), ∃ t, exec i s = .next t ∧ completesWith t (refAnswer i)

/-! Bit scan. -/

/-- R100, R101, R209: MSB32. -/
def Obligations.Msb32Result : Prop :=
  ∀ (x : Coord) (s : State), ∃ t, exec (.msb32 x) s = .next t ∧ t.phase = .done ∧ t.rsp.status = .ok ∧
    (x = 0 → t.rsp.r = BitVec.allOnes 64) ∧ (x ≠ 0 → ∃ p, isMsb x p ∧ t.rsp.r = BitVec.ofNat 64 p)

/-- R100, R102, R209: MSB64. -/
def Obligations.Msb64Result : Prop :=
  ∀ (v : Index) (s : State), ∃ t, exec (.msb64 v) s = .next t ∧ t.phase = .done ∧ t.rsp.status = .ok ∧
    (v = 0 → t.rsp.r = BitVec.allOnes 64) ∧ (v ≠ 0 → ∃ p, isMsb v p ∧ t.rsp.r = BitVec.ofNat 64 p)

/-- R104: the equivalent statements of the primitive. -/
def Obligations.MsbEquivalents : Prop :=
  (∀ n : BitVec 32, msb32 n = 32 - 1 - (n.clz.toNat : Int)) ∧ (∀ n : BitVec 64, msb64 n = 64 - 1 - (n.clz.toNat : Int)) ∧
  (∀ n : BitVec 32, n ≠ 0 → msb32 n = (Nat.log2 n.toNat : Int)) ∧ (∀ n : BitVec 64, n ≠ 0 → msb64 n = (Nat.log2 n.toNat : Int)) ∧
  (∀ n : BitVec 32, msb64 (n.setWidth 64) = msb32 n) ∧
  (∀ a b : BitVec 32, msb32 (maxCoord a b) = max (msb32 a) (msb32 b) ∧ msb32 (maxCoord a b) = msb32 (a ||| b))

/-! Tables. -/

/-- R110: composing the maps of the states a and b gives the map of a XOR b. -/
def Obligations.OrientationsCompose : Prop :=
  ∀ (a b : AutomatonState) (x y : Bit), orient a (orient b x y).1 (orient b x y).2 = orient (a ^^^ b) x y

/-- R113: the printed ENC_TT, and that it is the one the orientation rules give. -/
def Obligations.EncTableFromOrientations : Prop :=
  encTT.cells = [0x1, 0x4, 0xE, 0x8, 0x0, 0xF, 0x5, 0x9, 0xA, 0x6, 0xC, 0x3, 0xB, 0xD, 0x7, 0x2] ∧
  ∀ (s : AutomatonState) (bx bY : Bit),
    orient s (quadrant (encDigit (romRead encTT (encIndex s bx bY)))).1
      (quadrant (encDigit (romRead encTT (encIndex s bx bY)))).2 = (bx, bY) ∧
    encNext (romRead encTT (encIndex s bx bY)) = nextState s (encDigit (romRead encTT (encIndex s bx bY)))

/-- R114: the printed DEC_TT, and that it is the one the orientation rules give. -/
def Obligations.DecTableFromOrientations : Prop :=
  decTT.cells = [0x1, 0x4, 0xC, 0xA, 0x0, 0x9, 0xD, 0x7, 0xF, 0x6, 0x2, 0x8, 0xE, 0xB, 0x3, 0x5] ∧
  ∀ (s : AutomatonState) (d : Digit),
    (decBitX (romRead decTT (decIndex s d)), decBitY (romRead decTT (decIndex s d))) =
      orient s (quadrant d).1 (quadrant d).2 ∧
    decNext (romRead decTT (decIndex s d)) = nextState s d

/-- R115: the two tables are inverse, and each state's map from quadrants to digits is a bijection. -/
def Obligations.TablesAreInverse : Prop :=
  (∀ (s n : AutomatonState) (bx bY : Bit) (d : Digit),
    (encDigit (romRead encTT (encIndex s bx bY)) = d ∧ encNext (romRead encTT (encIndex s bx bY)) = n) ↔
      (decBitX (romRead decTT (decIndex s d)) = bx ∧ decBitY (romRead decTT (decIndex s d)) = bY ∧
        decNext (romRead decTT (decIndex s d)) = n)) ∧
  (∀ s : AutomatonState, Function.Bijective fun c : Bit × Bit => encDigit (romRead encTT (encIndex s c.1 c.2)))

/-- R116: n equal levels from S0 keep emitting the same digit and end in the state of the parity of n, for every n; and S3 is
entered only from S1 by 3, from S2 by 0, or kept by 1 and 2. -/
def Obligations.UniformLevelsFromS0 : Prop :=
  (∀ (bx bY : Bit) (n : Nat),
    (prtIterFrom bx bY n (0, S0)).2 = runState (topDigit bx bY) n ∧
    encDigit (romRead encTT (encIndex (prtIterFrom bx bY n (0, S0)).2 bx bY)) = topDigit bx bY) ∧
  (∀ (s : AutomatonState) (d : Digit), nextState s d = S3 ↔
    (s = S1 ∧ d = 3) ∨ (s = S2 ∧ d = 0) ∨ (s = S3 ∧ (d = 1 ∨ d = 2)))

/-- R117: A(m) is the base-4 repunit (4^m − 1)/3, with its recurrence, and no scaled repunit overflows. -/
def Obligations.RepunitValues : Prop :=
  repunit 0 = 0 ∧ repunit 32 = 0x5555_5555_5555_5555 ∧
  ∀ m, 1 ≤ m → m ≤ 32 →
    3 * (repunit m).toNat = 4 ^ m - 1 ∧ repunit m = (repunit (m - 1) <<< 2) ||| 1 ∧
    ∀ d : Digit, (scale d (repunit m)).toNat = d.toNat * (repunit m).toNat

/-- R118, R119: every entry of the printed PRT is the iterated encode table and the closed form. -/
def Obligations.PrtIsIterationAndClosedForm : Prop :=
  ∀ (bx bY : Bit) (m : Nat), 1 ≤ m → m ≤ 32 →
    (prtPartial (romRead prt (prtIndex bx bY (BitVec.ofNat 6 m))), prtState (romRead prt (prtIndex bx bY (BitVec.ofNat 6 m)))) =
      prtIter bx bY m ∧
    prtIter bx bY m = prtClosed bx bY m

/-! Encoders. -/

/-- R141: the reflection bits are the tests X ≥ 2^(k−1) and Y ≥ 2^(k−1), the working copies are the coordinates or their k-bit
complements, and both are below 2^(k−1). -/
def Obligations.ReflectionNormalises : Prop :=
  ∀ (x y : Coord) (k : Order) (w : EncRegs), PointOk x y k →
    ((reflect x y k w).bitX = 1 ↔ 2 ^ (k.toNat - 1) ≤ x.toNat) ∧ ((reflect x y k w).bitY = 1 ↔ 2 ^ (k.toNat - 1) ≤ y.toNat) ∧
    (reflect x y k w).wx.toNat = (if 2 ^ (k.toNat - 1) ≤ x.toNat then 2 ^ k.toNat - 1 - x.toNat else x.toNat) ∧
    (reflect x y k w).wy.toNat = (if 2 ^ (k.toNat - 1) ≤ y.toNat then 2 ^ k.toNat - 1 - y.toNat else y.toNat) ∧
    (reflect x y k w).wx.toNat < 2 ^ (k.toNat - 1) ∧ (reflect x y k w).wy.toNat < 2 ^ (k.toNat - 1)

/-- R142: `sp` and m are in range, m counts exactly the levels whose bits equal the reflection bits, and `max` may be an OR. -/
def Obligations.UniformLevelCount : Prop :=
  ∀ (x y : Coord) (k : Order) (w : EncRegs), PointOk x y k →
    -1 ≤ (encFront x y k w).sp.toInt ∧ (encFront x y k w).sp.toInt ≤ (k.toNat : Int) - 2 ∧
    ((encFront x y k w).m.toNat : Int) = (k.toNat : Int) - (encFront x y k w).sp.toInt - 1 ∧
    1 ≤ (encFront x y k w).m.toNat ∧ (encFront x y k w).m.toNat ≤ k.toNat ∧
    ((encFront x y k w).m.toNat = k.toNat ↔ (encFront x y k w).sp.toInt = -1) ∧
    (encFront x y k w).sp.toInt = msb32 (maxCoord (reflect x y k w).wx (reflect x y k w).wy) ∧
    (encFront x y k w).sp.toInt = msb32 ((reflect x y k w).wx ||| (reflect x y k w).wy) ∧
    (∀ i : Nat, (encFront x y k w).sp.toInt < (i : Int) → i ≤ k.toNat - 1 →
      bitAt x i = (encFront x y k w).bitX ∧ bitAt y i = (encFront x y k w).bitY) ∧
    (∀ i : Nat, (encFront x y k w).sp.toInt = (i : Int) →
      bitAt x i ≠ (encFront x y k w).bitX ∨ bitAt y i ≠ (encFront x y k w).bitY)

/-- R143: step 3 of ENCD, row by row. -/
def Obligations.DirectSeedTable : Prop :=
  ∀ w : EncRegs, 1 ≤ w.m.toNat → w.m.toNat ≤ 32 →
    (w.bitX = 0 → w.bitY = 0 → (seedDirect w).acc = 0 ∧ (seedDirect w).st = if w.m.toNat % 2 = 1 then S1 else S0) ∧
    (w.bitX = 0 → w.bitY = 1 → (seedDirect w).acc.toNat = (4 ^ w.m.toNat - 1) / 3 ∧ (seedDirect w).st = S0) ∧
    (w.bitX = 1 → w.bitY = 1 → (seedDirect w).acc.toNat = 2 * ((4 ^ w.m.toNat - 1) / 3) ∧ (seedDirect w).st = S0) ∧
    (w.bitX = 1 → w.bitY = 0 → (seedDirect w).acc.toNat = 4 ^ w.m.toNat - 1 ∧
      (seedDirect w).st = if w.m.toNat % 2 = 1 then S2 else S0)

/-- R144, R148, R175: no iteration of either loop shifts a set bit out. -/
def Obligations.LoopsLoseNoBit : Prop :=
  (∀ (x y : Coord) (n : Nat) (w : EncRegs), (w.acc.toNat + 1) * 4 ^ n ≤ 2 ^ 64 →
    w.acc.toNat * 4 ^ n ≤ (encLevels x y n w).acc.toNat ∧ (encLevels x y n w).acc.toNat < (w.acc.toNat + 1) * 4 ^ n) ∧
  (∀ (v : Index) (n : Nat) (w : DecRegs), (w.x.toNat + 1) * 2 ^ n ≤ 2 ^ 32 → (w.y.toNat + 1) * 2 ^ n ≤ 2 ^ 32 →
    w.x.toNat * 2 ^ n ≤ (decDigits v n w).x.toNat ∧ (decDigits v n w).x.toNat < (w.x.toNat + 1) * 2 ^ n ∧
    w.y.toNat * 2 ^ n ≤ (decDigits v n w).y.toNat ∧ (decDigits v n w).y.toNat < (w.y.toNat + 1) * 2 ^ n)

/-- R25, R26, R29: the loop variables count down to −1. -/
def Obligations.LoopVariablesEndAtMinusOne : Prop :=
  (∀ (x y : Coord) (k : Order) (w : EncRegs), PointOk x y k →
    (runDirect x y k w).i.toInt = -1 ∧ (runTable x y k w).i.toInt = -1) ∧
  (∀ (v : Index) (k : Order) (w : DecRegs), IndexOk v k → (runDecode v k w).j.toInt = -1)

/-- R140, R122: ENCD skips levels and computes what the reference encoder computes. -/
def Obligations.EncdEqualsReference : Prop :=
  ∀ (x y : Coord) (k : Order) (s : State), PointOk x y k →
    ∃ t, exec (.encd x y k) s = .next t ∧ completesWith t (.value (refEncode x y k.toNat))

/-- R160, R122: ENCL reads the PRT and computes what the reference encoder computes. -/
def Obligations.EnclEqualsReference : Prop :=
  ∀ (x y : Coord) (k : Order) (s : State), PointOk x y k →
    ∃ t, exec (.encl x y k) s = .next t ∧ completesWith t (.value (refEncode x y k.toNat))

/-- R162: the two variants give the same index, and the same fault, on every operand and in any two states. -/
def Obligations.VariantsAgree : Prop :=
  ∀ (x y : Coord) (k : Order) (s s' : State), ∃ t t',
    exec (.encd x y k) s = .next t ∧ exec (.encl x y k) s' = .next t' ∧
    t.rsp.status = t'.rsp.status ∧ (t.rsp.status = .ok → t.rsp.r = t'.rsp.r) ∧
    (PointOk x y k → t.rsp.status = .ok)

/-- R147: the index is below 2^(2k). -/
def Obligations.EncodedIndexInRange : Prop :=
  ∀ (x y : Coord) (k : Order) (s : State), PointOk x y k → ∃ v, encodesTo x y k s v ∧ v.toNat < 2 ^ (2 * k.toNat)

/-- R146: both working copies are zero exactly at the four corners; there sp = −1, m = k, and the index is d0 · A(k). -/
def Obligations.EncodeCorners : Prop :=
  (∀ (x y : Coord) (k : Order) (w : EncRegs), PointOk x y k →
    (((reflect x y k w).wx = 0 ∧ (reflect x y k w).wy = 0) ↔ ((x = 0 ∨ x = topCoord k) ∧ (y = 0 ∨ y = topCoord k))) ∧
    (((reflect x y k w).wx = 0 ∧ (reflect x y k w).wy = 0) →
      (encFront x y k w).sp.toInt = -1 ∧ (encFront x y k w).m.toNat = k.toNat)) ∧
  (∀ (k : Order) (s : State), OrderOk k →
    encodesTo 0 0 k s 0 ∧ encodesTo 0 (topCoord k) k s (BitVec.ofNat 64 ((4 ^ k.toNat - 1) / 3)) ∧
    encodesTo (topCoord k) (topCoord k) k s (BitVec.ofNat 64 (2 * ((4 ^ k.toNat - 1) / 3))) ∧
    encodesTo (topCoord k) 0 k s (BitVec.ofNat 64 (4 ^ k.toNat - 1)))

/-- R149: at order 1 the mask is 1, both working copies are zero, sp = −1, m = 1, and the result is d0. -/
def Obligations.EncodeOrderOne : Prop :=
  ones 1 = 1 ∧
  (∀ (x y : Coord) (w : EncRegs), PointOk x y 1 →
    (reflect x y 1 w).wx = 0 ∧ (reflect x y 1 w).wy = 0 ∧ (encFront x y 1 w).sp.toInt = -1 ∧ (encFront x y 1 w).m = 1) ∧
  ∀ s : State, encodesTo 0 0 1 s 0 ∧ encodesTo 0 1 1 s 1 ∧ encodesTo 1 1 1 s 2 ∧ encodesTo 1 0 1 s 3

/-- R193, R194, R195, R197: the faults of both encoders, in their priority. -/
def Obligations.EncoderFaults : Prop :=
  ∀ (x y : Coord) (k : Order) (s : State),
    (¬ OrderOk k → encodeFaults x y k s .orderRange) ∧
    (OrderOk k → 2 ^ k.toNat ≤ x.toNat → encodeFaults x y k s .xRange) ∧
    (OrderOk k → x.toNat < 2 ^ k.toNat → 2 ^ k.toNat ≤ y.toNat → encodeFaults x y k s .yRange)

/-! Decoder. -/

/-- R172, R179: the bit-scan formulas give the run length as it is defined. -/
def Obligations.ScanGivesRunLength : Prop :=
  ∀ (v : Index) (k : Order) (w : DecRegs), IndexOk v k → isRunLength v k.toNat (decFront v k w).run.toNat

/-- R172: the decoder's run equals the encoder's m for the same point. -/
def Obligations.RunEqualsUniformLevels : Prop :=
  ∀ (x y : Coord) (k : Order) (w : EncRegs) (w' : DecRegs), PointOk x y k →
    (decFront (refEncode x y k.toNat) k w').run = (encFront x y k w).m

/-- R173, R178: every quadrant writes both seeds and the state, and the state is the PRT's. -/
def Obligations.DecoderSeeds : Prop :=
  ∀ w : DecRegs, 1 ≤ w.run.toNat → w.run.toNat ≤ 32 →
    (w.top = 0 → (seedQuadrant w).x = 0 ∧ (seedQuadrant w).y = 0 ∧
      (seedQuadrant w).st = if w.run.toNat % 2 = 1 then S1 else S0) ∧
    (w.top = 1 → (seedQuadrant w).x = 0 ∧ (seedQuadrant w).y.toNat = 2 ^ w.run.toNat - 1 ∧ (seedQuadrant w).st = S0) ∧
    (w.top = 2 → (seedQuadrant w).x.toNat = 2 ^ w.run.toNat - 1 ∧ (seedQuadrant w).y.toNat = 2 ^ w.run.toNat - 1 ∧
      (seedQuadrant w).st = S0) ∧
    (w.top = 3 → (seedQuadrant w).x.toNat = 2 ^ w.run.toNat - 1 ∧ (seedQuadrant w).y = 0 ∧
      (seedQuadrant w).st = if w.run.toNat % 2 = 1 then S2 else S0) ∧
    (seedQuadrant w).st = prtState (romRead prt (prtIndex (quadrant w.top).1 (quadrant w.top).2 w.run))

/-- R170, R122: DEC skips the run and computes what the reference decoder computes. -/
def Obligations.DecEqualsReference : Prop :=
  ∀ (v : Index) (k : Order) (s : State), IndexOk v k →
    ∃ t, exec (.dec v k) s = .next t ∧ completesWith t (.cell (refDecode v k.toNat).1 (refDecode v k.toNat).2)

/-- R176: both coordinates are below 2^k. -/
def Obligations.DecodedCellInRange : Prop :=
  ∀ (v : Index) (k : Order) (s : State), IndexOk v k →
    ∃ x y, decodesTo v k s x y ∧ x.toNat < 2 ^ k.toNat ∧ y.toNat < 2 ^ k.toNat

/-- R180: when all k digits are equal the run is k, and the four such indices decode to the four corners. -/
def Obligations.DecodeWholeRun : Prop :=
  (∀ (v : Index) (k : Order) (w : DecRegs), IndexOk v k → (∀ j, j < k.toNat → digitAt v j = digitAt v (k.toNat - 1)) →
    (decFront v k w).run.toNat = k.toNat ∧ (runDecode v k w).x = (decFront v k w).x ∧ (runDecode v k w).y = (decFront v k w).y) ∧
  ∀ (k : Order) (s : State), OrderOk k →
    decodesTo 0 k s 0 0 ∧ decodesTo (BitVec.ofNat 64 ((4 ^ k.toNat - 1) / 3)) k s 0 (topCoord k) ∧
    decodesTo (BitVec.ofNat 64 (2 * ((4 ^ k.toNat - 1) / 3))) k s (topCoord k) (topCoord k) ∧
    decodesTo (BitVec.ofNat 64 (4 ^ k.toNat - 1)) k s (topCoord k) 0

/-- R181: at order 1 the run is 1, and the four indices decode to the four quadrants. -/
def Obligations.DecodeOrderOne : Prop :=
  (∀ (v : Index) (w : DecRegs), IndexOk v 1 → (decFront v 1 w).run = 1) ∧
  ∀ s : State, decodesTo 0 1 s 0 0 ∧ decodesTo 1 1 s 0 1 ∧ decodesTo 2 1 s 1 1 ∧ decodesTo 3 1 s 1 0

/-- R193, R196, R197: the faults of DEC, in their priority. -/
def Obligations.DecoderFaults : Prop :=
  ∀ (v : Index) (k : Order) (s : State),
    (¬ OrderOk k → decodeFaults v k s .orderRange) ∧
    (OrderOk k → 2 ^ (2 * k.toNat) ≤ v.toNat → decodeFaults v k s .indexRange)

/-- R177: encoder and decoder are exact inverses of each other, in both directions. -/
def Obligations.RoundTrip : Prop :=
  (∀ (x y : Coord) (k : Order) (s s' : State), PointOk x y k → ∃ v, encodesTo x y k s v ∧ decodesTo v k s' x y) ∧
  (∀ (v : Index) (k : Order) (s s' : State), IndexOk v k → ∃ x y, PointOk x y k ∧ decodesTo v k s x y ∧ encodesTo x y k s' v)

/-- R125: consecutive indices are neighbouring cells, and the curve runs from (0, 0) to (2^k − 1, 0). -/
def Obligations.ConsecutiveIndicesAreNeighbours : Prop :=
  ∀ (k : Order), OrderOk k →
    refDecode 0 k.toNat = (0, 0) ∧ refDecode (BitVec.ofNat 64 (4 ^ k.toNat - 1)) k.toNat = (topCoord k, 0) ∧
    ∀ v : Index, v.toNat < 4 ^ k.toNat - 1 →
      ((refDecode v k.toNat).1 = (refDecode (v + 1) k.toNat).1 ∧
        ((refDecode v k.toNat).2.toNat + 1 = (refDecode (v + 1) k.toNat).2.toNat ∨
          (refDecode (v + 1) k.toNat).2.toNat + 1 = (refDecode v k.toNat).2.toNat)) ∨
      ((refDecode v k.toNat).2 = (refDecode (v + 1) k.toNat).2 ∧
        ((refDecode v k.toNat).1.toNat + 1 = (refDecode (v + 1) k.toNat).1.toNat ∨
          (refDecode (v + 1) k.toNat).1.toNat + 1 = (refDecode v k.toNat).1.toNat))

/-! Faults. -/

/-- R192, R76: a reserved code completes with IllegalOp, whatever the other fields hold. -/
def Obligations.ReservedCodesFault : Prop :=
  (∀ s : State, (∃ t, exec .reserved5 s = .next t ∧ completesWith t (.fault .illegalOp)) ∧
    (∃ t, exec .reserved6 s = .next t ∧ completesWith t (.fault .illegalOp)) ∧
    (∃ t, exec .reserved7 s = .next t ∧ completesWith t (.fault .illegalOp))) ∧
  (∀ (q : Request) (s : State), (q.op = 5 ∨ q.op = 6 ∨ q.op = 7) →
    ∃ t, exec (decodeRequest q) s = .next t ∧ t.rsp.status = .fault .illegalOp)

/-- R190, R197: the status is what the checks say, and the checks pass exactly when the documented preconditions hold. -/
def Obligations.ChecksAreThePreconditions : Prop :=
  ∀ (i : Instr) (s : State),
    (check i = none ↔ i.wellFormed = true) ∧
    ∃ t, exec i s = .next t ∧ (check i = none → t.rsp.status = .ok) ∧ (∀ f, check i = some f → t.rsp.status = .fault f)

/-- R211: the outcomes each operation can have. -/
def Obligations.OutcomeTable : Prop :=
  ∀ (i : Instr) (s : State), ∃ t, exec i s = .next t ∧
    match i with
    | .msb32 _ => t.rsp.status = .ok
    | .msb64 _ => t.rsp.status = .ok
    | .encd x y k => (t.rsp.status = .ok ↔ PointOk x y k) ∧
        (t.rsp.status = .ok ∨ t.rsp.status = .fault .orderRange ∨ t.rsp.status = .fault .xRange ∨ t.rsp.status = .fault .yRange)
    | .encl x y k => (t.rsp.status = .ok ↔ PointOk x y k) ∧
        (t.rsp.status = .ok ∨ t.rsp.status = .fault .orderRange ∨ t.rsp.status = .fault .xRange ∨ t.rsp.status = .fault .yRange)
    | .dec v k => (t.rsp.status = .ok ↔ IndexOk v k) ∧
        (t.rsp.status = .ok ∨ t.rsp.status = .fault .orderRange ∨ t.rsp.status = .fault .indexRange)
    | .reserved5 => t.rsp.status = .fault .illegalOp
    | .reserved6 => t.rsp.status = .fault .illegalOp
    | .reserved7 => t.rsp.status = .fault .illegalOp

/-- R198, R199, R200: after a fault the ordinary take returns the unit to Idle, and the next request is answered as ever. The turns and
the host's record are the model's choice (log entries 4, 5). -/
def Obligations.FaultLeavesNoTrace : Prop :=
  ∀ (s : State) (bad q : Request) (f : FaultCode), s.phase = .idle → check (decodeRequest bad) = some f →
    ∃ t u v, Host.Core.run core 6 { s with turns := [.submit bad, .wait, .take, .submit q, .wait, .take] } = .next t ∧
      t.phase = .idle ∧ t.taken = s.taken ++ [u, v] ∧ u.status = .fault f ∧ answers q v
end

