-- ==== Sys2Proof/Laws/State.lean ====
section
/-! SUPPORT. One lemma per field per update of the state and of the working registers, each true by rfl. -/

namespace Sys2Proof.Machine

/-! `completed` writes every field but the host's. -/

@[simp] theorem completed_phase (a : Answer) (s : State) : (completed a s).phase = .done := rfl
@[simp] theorem completed_rsp (a : Answer) (s : State) : (completed a s).rsp = a.toResponse s.freeCount := rfl
@[simp] theorem completed_req (a : Answer) (s : State) : (completed a s).req = Config.freeReq s.freeCount := rfl
@[simp] theorem completed_enc (a : Answer) (s : State) : (completed a s).enc = Config.freeEnc s.freeCount := rfl
@[simp] theorem completed_dec (a : Answer) (s : State) : (completed a s).dec = Config.freeDec s.freeCount := rfl
@[simp] theorem completed_freeCount (a : Answer) (s : State) : (completed a s).freeCount = s.freeCount + 1 := rfl
@[simp] theorem completed_turns (a : Answer) (s : State) : (completed a s).turns = s.turns := rfl
@[simp] theorem completed_sent (a : Answer) (s : State) : (completed a s).sent = s.sent := rfl
@[simp] theorem completed_taken (a : Answer) (s : State) : (completed a s).taken = s.taken := rfl

/-! `hostReset` writes every field but the host's turns and the responses it took. -/

@[simp] theorem hostReset_phase (s : State) : (hostReset s).phase = .idle := rfl
@[simp] theorem hostReset_req (s : State) : (hostReset s).req = Config.freeReq s.freeCount := rfl
@[simp] theorem hostReset_rsp (s : State) : (hostReset s).rsp = Config.freeRsp s.freeCount := rfl
@[simp] theorem hostReset_enc (s : State) : (hostReset s).enc = Config.freeEnc s.freeCount := rfl
@[simp] theorem hostReset_dec (s : State) : (hostReset s).dec = Config.freeDec s.freeCount := rfl
@[simp] theorem hostReset_freeCount (s : State) : (hostReset s).freeCount = s.freeCount + 1 := rfl
@[simp] theorem hostReset_turns (s : State) : (hostReset s).turns = s.turns := rfl
@[simp] theorem hostReset_sent (s : State) : (hostReset s).sent = notAbandoned s.phase s.sent := rfl
@[simp] theorem hostReset_taken (s : State) : (hostReset s).taken = s.taken := rfl

/-! The phase decides what `submit` and `take` do. -/

theorem hostSubmit_idle {s : State} (h : s.phase = .idle) (q : Request) :
    hostSubmit q s = { s with req := q, phase := .busy, sent := s.sent ++ [q] } := by
  simp only [hostSubmit, h]

theorem hostSubmit_not_idle {s : State} (h : s.phase ≠ .idle) (q : Request) : hostSubmit q s = s := by
  cases hp : s.phase <;> simp_all [hostSubmit]

theorem hostTake_done {s : State} (h : s.phase = .done) :
    hostTake s = { s with
      phase := .idle
      taken := s.taken ++ [s.rsp]
      rsp := Config.freeRsp s.freeCount
      freeCount := s.freeCount + 1 } := by
  simp only [hostTake, h]

theorem hostTake_not_done {s : State} (h : s.phase ≠ .done) : hostTake s = s := by
  cases hp : s.phase <;> simp_all [hostTake]

/-! The encoders' registers: which of them each step writes. -/

@[simp] theorem reflect_bitX (x y : Coord) (k : Order) (w : EncRegs) : (reflect x y k w).bitX = bitAt x (k.toNat - 1) := rfl
@[simp] theorem reflect_bitY (x y : Coord) (k : Order) (w : EncRegs) : (reflect x y k w).bitY = bitAt y (k.toNat - 1) := rfl
@[simp] theorem reflect_wx (x y : Coord) (k : Order) (w : EncRegs) :
    (reflect x y k w).wx = workingCopy x k (bitAt x (k.toNat - 1)) := rfl
@[simp] theorem reflect_wy (x y : Coord) (k : Order) (w : EncRegs) :
    (reflect x y k w).wy = workingCopy y k (bitAt y (k.toNat - 1)) := rfl
@[simp] theorem startPos_sp (w : EncRegs) : (startPos w).sp = BitVec.ofInt 7 (msb32 (maxCoord w.wx w.wy)) := rfl
@[simp] theorem startPos_bitX (w : EncRegs) : (startPos w).bitX = w.bitX := rfl
@[simp] theorem startPos_bitY (w : EncRegs) : (startPos w).bitY = w.bitY := rfl
@[simp] theorem levelCount_m (k : Order) (w : EncRegs) :
    (levelCount k w).m = BitVec.ofInt 6 ((k.toNat : Int) - w.sp.toInt - 1) := rfl
@[simp] theorem levelCount_sp (k : Order) (w : EncRegs) : (levelCount k w).sp = w.sp := rfl
@[simp] theorem levelCount_bitX (k : Order) (w : EncRegs) : (levelCount k w).bitX = w.bitX := rfl
@[simp] theorem levelCount_bitY (k : Order) (w : EncRegs) : (levelCount k w).bitY = w.bitY := rfl
@[simp] theorem seedDirect_acc (w : EncRegs) : (seedDirect w).acc = (prtClosed w.bitX w.bitY w.m.toNat).1 := rfl
@[simp] theorem seedDirect_st (w : EncRegs) : (seedDirect w).st = (prtClosed w.bitX w.bitY w.m.toNat).2 := rfl
@[simp] theorem seedDirect_sp (w : EncRegs) : (seedDirect w).sp = w.sp := rfl
@[simp] theorem seedTable_acc (w : EncRegs) : (seedTable w).acc = prtPartial (romRead prt (prtIndex w.bitX w.bitY w.m)) := rfl
@[simp] theorem seedTable_st (w : EncRegs) : (seedTable w).st = prtState (romRead prt (prtIndex w.bitX w.bitY w.m)) := rfl
@[simp] theorem seedTable_sp (w : EncRegs) : (seedTable w).sp = w.sp := rfl

/-! The decoder's registers. -/

@[simp] theorem classify_top (v : Index) (k : Order) (w : DecRegs) : (classify v k w).top = digitAt v (k.toNat - 1) := rfl

theorem scanRun_top (v : Index) (k : Order) (w : DecRegs) : (scanRun v k w).top = w.top := by
  unfold scanRun; split <;> rfl

theorem runLength_top (k : Order) (w : DecRegs) : (runLength k w).top = w.top := by
  unfold runLength; split <;> rfl

theorem seedQuadrant_top (w : DecRegs) : (seedQuadrant w).top = w.top := by
  unfold seedQuadrant; split <;> rfl

theorem seedQuadrant_run (w : DecRegs) : (seedQuadrant w).run = w.run := by
  unfold seedQuadrant; split <;> rfl

end Sys2Proof.Machine
end

