-- ==== Sys2Proof/Laws/Ops.lean ====
section
/-! SUPPORT. What the shared operations can do, said once: completing, the host's turns, the bit scan, and the two loops. -/

namespace Sys2Proof.Machine

open Sys2Proof.Safety

/-- The response made from an answer carries it, whatever the free values are. -/
theorem carries_toResponse (a : Answer) (n : Nat) : carries (a.toResponse n) a := by
  cases a <;> simp [Answer.toResponse, carries]

/-- `deliver` answers next, with the completed state and no other. -/
theorem deliver_eq_next {a : Answer} {s t : State} (h : deliver a s = .next t) : t = completed a s := by
  simp only [deliver, Host.Outcome.next.injEq] at h
  exact h.symm

/-- The completed state says the answer, in phase Done. -/
theorem completed_completesWith (a : Answer) (s : State) : completesWith (completed a s) a :=
  ⟨carries_toResponse a s.freeCount, rfl⟩

/-- The completed state has the host's side as it was. -/
theorem completed_frame (a : Answer) (s : State) : frame s (completed a s) := ⟨rfl, rfl, rfl⟩

/-- Every operation is one completion: the fault its checks find, or its result. -/
theorem exec_eq_completed (i : Instr) (s : State) : ∃ a, exec i s = .next (completed a s) := by
  cases i with
  | msb32 x => exact ⟨_, rfl⟩
  | msb64 v => exact ⟨_, rfl⟩
  | encd x y k =>
    simp only [exec, execEncd]
    split <;> exact ⟨_, rfl⟩
  | encl x y k =>
    simp only [exec, execEncl]
    split <;> exact ⟨_, rfl⟩
  | dec v k =>
    simp only [exec, execDec]
    split <;> exact ⟨_, rfl⟩
  | reserved5 => exact ⟨_, rfl⟩
  | reserved6 => exact ⟨_, rfl⟩
  | reserved7 => exact ⟨_, rfl⟩

/-- A host that waits leaves the step to the unit. -/
theorem step_wait {s : State} {rest : List HostMove} (h : s.turns = .wait :: rest) :
    step s = unitStep { s with turns := rest } := by
  simp only [step, h]

/-- A host with no turn left waits. -/
theorem step_no_turns {s : State} (h : s.turns = []) : step s = unitStep s := by
  simp only [step, h]

theorem step_submit {s : State} {q : Request} {rest : List HostMove} (h : s.turns = .submit q :: rest) :
    step s = .next (hostSubmit q { s with turns := rest }) := by
  simp only [step, h, hostMove]

theorem step_take {s : State} {rest : List HostMove} (h : s.turns = .take :: rest) :
    step s = .next (hostTake { s with turns := rest }) := by
  simp only [step, h, hostMove]

theorem step_reset {s : State} {rest : List HostMove} (h : s.turns = .reset :: rest) :
    step s = .next (hostReset { s with turns := rest }) := by
  simp only [step, h, hostMove]

theorem unitStep_busy {s : State} (h : s.phase = .busy) : unitStep s = exec (fetch s) s := by
  simp only [unitStep, h]

theorem unitStep_not_busy {s : State} (h : s.phase ≠ .busy) : unitStep s = .next s := by
  cases hp : s.phase <;> simp_all [unitStep]

/-- The scan below p finds −1 and no set bit, or the highest set bit. -/
theorem msbBelow_cases {w : Nat} (n : BitVec w) (p : Nat) :
    (msbBelow n p = -1 ∧ ∀ j, j < p → n.getLsbD j = false) ∨
      ∃ h : Nat, h < p ∧ msbBelow n p = (h : Int) ∧ n.getLsbD h = true ∧ ∀ j, h < j → j < p → n.getLsbD j = false := by
  induction p with
  | zero => exact .inl ⟨rfl, fun j hj => absurd hj (Nat.not_lt_zero j)⟩
  | succ p ih =>
    by_cases hb : n.getLsbD p = true
    · refine .inr ⟨p, Nat.lt_succ_self p, by simp [msbBelow, hb], hb, fun j hj hj' => ?_⟩
      omega
    · have hb' : n.getLsbD p = false := by simpa using hb
      have step_down : msbBelow n (p + 1) = msbBelow n p := by simp [msbBelow, hb']
      rcases ih with ⟨he, hz⟩ | ⟨h, hlt, he, hset, hz⟩
      · refine .inl ⟨step_down.trans he, fun j hj => ?_⟩
        rcases Nat.lt_succ_iff_lt_or_eq.mp hj with hj | rfl
        · exact hz j hj
        · exact hb'
      · refine .inr ⟨h, Nat.lt_succ_of_lt hlt, step_down.trans he, hset, fun j hj hj' => ?_⟩
        rcases Nat.lt_succ_iff_lt_or_eq.mp hj' with hj' | rfl
        · exact hz j hj hj'
        · exact hb'

/-- The encoders' loop computes what the reference encoder's levels do, from the same partial index and state. -/
theorem encLevels_acc_st (x y : Coord) (n : Nat) (w : EncRegs) :
    ((encLevels x y n w).acc, (encLevels x y n w).st) = refEncodeFrom x y n (w.acc, w.st) := by
  induction n generalizing w with
  | zero => rfl
  | succ i ih => exact ih (encLevel x y i w)

/-- The encoders' loop counts `i` down by one a level. -/
theorem encLevels_i (x y : Coord) (n : Nat) (w : EncRegs) : (encLevels x y n w).i = w.i - BitVec.ofNat 7 n := by
  induction n generalizing w with
  | zero => simp [encLevels]
  | succ i ih =>
    refine (ih (encLevel x y i w)).trans ?_
    simp only [encLevel, BitVec.ofNat_add, BitVec.ofNat_eq_ofNat]
    rw [BitVec.sub_sub, BitVec.add_comm]

/-- The decoder's loop computes what the reference decoder's digits do, from the same coordinates and state. -/
theorem decDigits_xy_st (v : Index) (n : Nat) (w : DecRegs) :
    ((decDigits v n w).x, (decDigits v n w).y, (decDigits v n w).st) = refDecodeFrom v n (w.x, w.y, w.st) := by
  induction n generalizing w with
  | zero => rfl
  | succ j ih => exact ih (decDigit v j w)

/-- The decoder's loop counts `j` down by one a digit. -/
theorem decDigits_j (v : Index) (n : Nat) (w : DecRegs) : (decDigits v n w).j = w.j - BitVec.ofNat 6 n := by
  induction n generalizing w with
  | zero => simp [decDigits]
  | succ j ih =>
    refine (ih (decDigit v j w)).trans ?_
    simp only [decDigit, BitVec.ofNat_add, BitVec.ofNat_eq_ofNat]
    rw [BitVec.sub_sub, BitVec.add_comm]

end Sys2Proof.Machine
end

