-- ==== Sys2Proof/Laws/PerInstr.lean ====
section
/-! SUPPORT. Statements made once per constructor of Instr. -/

namespace Sys2Proof.Laws.RequestOpcode

/-- The request assembled for an instruction has the instruction's operation code (30_encoding.md R72). -/
def Statement (i : Instr) : Prop := (encodeRequest i).op = i.opcode

theorem msb32 (x : Coord) : Statement (.msb32 x) := rfl
theorem msb64 (v : Index) : Statement (.msb64 v) := rfl
theorem encd (x y : Coord) (k : Order) : Statement (.encd x y k) := rfl
theorem encl (x y : Coord) (k : Order) : Statement (.encl x y k) := rfl
theorem dec (v : Index) (k : Order) : Statement (.dec v k) := rfl
theorem reserved5 : Statement .reserved5 := rfl
theorem reserved6 : Statement .reserved6 := rfl
theorem reserved7 : Statement .reserved7 := rfl

end Sys2Proof.Laws.RequestOpcode
end

