-- ==== Sys2Proof/Tests/Slice0.lean ====
section
/-! SUPPORT. The model's own tests: the checks refuse, written-out words decode, single steps give the spec's numbers, and every
statement's hypotheses are met by something. Expected values are those of spec/95_test_vectors.md unless a comment says otherwise. -/

namespace Sys2Proof.Tests

open Sys2Proof.Machine Sys2Proof.Safety

/-! The checks of WellFormed, each on a term it refuses (60_exceptions.md R190 to R196, 95 section 6). -/

theorem test_reserved_ill_formed : (Instr.reserved5.wellFormed, Instr.reserved6.wellFormed, Instr.reserved7.wellFormed) =
    (false, false, false) := by decide
theorem test_order_zero_ill_formed : (Instr.encd 0 0 0).wellFormed = false := by decide
theorem test_order_33_ill_formed : (Instr.encl 0 0 33).wellFormed = false := by decide
theorem test_order_40_ill_formed : (Instr.dec 0 40).wellFormed = false := by decide
theorem test_x_ill_formed : (Instr.encd 16 0 4).wellFormed = false := by decide
theorem test_y_ill_formed : (Instr.encd 15 16 4).wellFormed = false := by decide
theorem test_index_ill_formed : (Instr.dec 256 4).wellFormed = false := by decide
theorem test_largest_well_formed :
    ((Instr.encd 15 15 4).wellFormed, (Instr.encl 0xFFFFFFFF 0xFFFFFFFF 32).wellFormed, (Instr.dec 255 4).wellFormed) =
      (true, true, true) := by decide
theorem test_138_bits_rejected : fitsRequest (2 ^ 137) = false := by decide
theorem test_137_bits_fit : fitsRequest (2 ^ 137 - 1) = true := by decide
theorem test_long_number_rejected : decodeTableWord 144 (2 ^ 137) = none := by decide

/-! One word for each row, written out from the fields of 30_encoding.md R70: v, y, x, k, op, most significant first.
The first five and the last are also printed in 95 section 7. -/

theorem test_word_msb32 : decodeTableWord 144 0x00000000000000000000000000000025800 = some (.msb32 300) := by decide
theorem test_word_msb64 : decodeTableWord 144 0x00000000000073942000000000000000001 = some (.msb64 236705) := by decide
theorem test_word_encd : decodeTableWord 144 0x0000000000000000000000001FFFFFFFF02 = some (.encd 0xFFFFFFFF 0 32) := by decide
theorem test_word_encl : decodeTableWord 144 0x000000000000000002468ACF1BD5B7DDF03 = some (.encl 0xDEADBEEF 0x12345678 32) := by
  decide
theorem test_word_dec : decodeTableWord 144 0x15555555555555554000000000000000104 = some (.dec 0xAAAAAAAAAAAAAAAA 32) := by decide
theorem test_word_reserved5 : decode ((0#64 : BitVec 64) ++ 0#32 ++ 0#32 ++ 0b000000#6 ++ 0b101#3) = .reserved5 := by decide
theorem test_word_reserved6 : decode ((0#64 : BitVec 64) ++ 0#32 ++ 1#32 ++ 0b000100#6 ++ 0b110#3) = .reserved6 := by decide
theorem test_word_reserved7 : decodeTableWord 144 0x00000000000000000000000000000000007 = some .reserved7 := by decide
/-- Bit by bit: y = 5 stands at bits 72..41 and is not read as x (R70). -/
theorem test_word_bits : decode ((2#64 : BitVec 64) ++ 5#32 ++ 3#32 ++ 0b000100#6 ++ 0b010#3) = .encd 3 5 4 := by decide
theorem test_encode_encd : encode (.encd 5 10 4) = 0x00000000000000000000000140000000A22 := by decide
theorem test_encode_dec : encode (.dec 119 4) = 0x00000000000000EE000000000000000024 := by decide

/-! One step from reset on a request word. -/

/-- The response of the step that runs word w as the first request after reset. -/
def respond (w : Nat) : Option Response :=
  match step (State.reset.withFetchWord 144 w) with
  | .next t => some t.rsp
  | .fault _ => none
  | .refused _ => none

/-- Status code and `r` of that response. -/
def respondR (w : Nat) : Option (Nat × Nat) := (respond w).map fun t => (t.status.code.toNat, t.r.toNat)

/-- Status code and cell of that response. -/
def respondCell (w : Nat) : Option (Nat × Nat × Nat) := (respond w).map fun t => (t.status.code.toNat, t.rx.toNat, t.ry.toNat)

/-- Status code of that response. -/
def respondStatus (w : Nat) : Option Nat := (respond w).map fun t => t.status.code.toNat

theorem test_msb32_zero_ignores_other_fields :
    respondR (0 + 63 <<< 3 + 0 <<< 9 + 5 <<< 41 + 0xFFFFFFFFFFFFFFFF <<< 73) = some (0, 0xFFFFFFFFFFFFFFFF) := by decide
theorem test_msb32_top_bit : respondR (0 + 0x80000001 <<< 9) = some (0, 31) := by decide
theorem test_msb64_bit_32 : respondR (1 + 0x0000000100000000 <<< 73) = some (0, 32) := by decide
theorem test_msb64_zero_ignores_x : respondR (1 + 0xFFFFFFFF <<< 9) = some (0, 0xFFFFFFFFFFFFFFFF) := by decide
theorem test_encd_trace : respondR 0x00000000000000000000000140000000A22 = some (0, 119) := by decide
theorem test_encd_longest_loop : respondR 0x00000000000000000FFFFFFFF0000000102 = some (0, 0xD555555555555555) := by decide
theorem test_encl_trace : respondR 0x000000000000000000000000E0000000623 = some (0, 48) := by decide
theorem test_encl_order_32 : respondR 0x000000000000000002468ACF1BD5B7DDF03 = some (0, 0xF258E363DC424395) := by decide
theorem test_dec_quadrant_one : respondCell 0x000000000000000EE000000000000000024 = some (0, 5, 10) := by decide
theorem test_dec_order_32 : respondCell 0x1E4B1C6C7B884872A000000000000000104 = some (0, 0xDEADBEEF, 0x12345678) := by decide
theorem test_reserved5_status : respondStatus 5 = some 1 := by decide
theorem test_reserved6_ignores_other_fields : respondStatus (6 + 4 <<< 3 + 1 <<< 9) = some 1 := by decide
theorem test_reserved7_before_order : respondStatus 7 = some 1 := by decide
theorem test_order_before_x : respondStatus (2 + 16 <<< 9 + 16 <<< 41) = some 2 := by decide
theorem test_x_before_y : respondStatus 0x00000000000000000000000200000002022 = some 3 := by decide
theorem test_y_range : respondStatus (2 + 4 <<< 3 + 15 <<< 9 + 16 <<< 41) = some 4 := by decide
theorem test_index_range : respondStatus 0x00000000000000200000000000000000024 = some 5 := by decide
theorem test_x_range_at_order_31 : respondStatus (2 + 31 <<< 3 + 0x80000000 <<< 9) = some 3 := by decide
theorem test_index_range_at_order_31 : respondStatus (4 + 31 <<< 3 + 0x4000000000000000 <<< 73) = some 5 := by decide

/-- The response words of `MSB32 0` and `DEC 236705, 9` with their unspecified fields at zero, as 95 Program 4 prints them. -/
theorem test_response_word :
    Response.pack { status := .ok, r := 0xFFFFFFFFFFFFFFFF, rx := 0, ry := 0 } = 0x00000000000000007FFFFFFFFFFFFFFF8 ∧
    Response.pack { status := .ok, r := 0, rx := 300, ry := 77 } = 0x000000268000009600000000000000000 := by decide

/-! The host's turns (10_state.md R22, R36). -/

/-- A request of the tests: `DEC 48, 4`. -/
def sampleRequest : Request := { op := 4, k := 4, x := 0, y := 0, v := 48 }

/-- The reset state in another phase, with given turns. -/
def inPhase (p : Phase) (turns : List HostMove) : State := { State.reset with phase := p, turns := turns }

/-- The phase after n steps, and how many responses the host has taken. -/
def runPhase (n : Nat) (s : State) : Option (Phase × Nat) :=
  match Host.Core.run core n s with
  | .next t => some (t.phase, t.taken.length)
  | .fault _ => none
  | .refused _ => none

theorem test_submit_wait_take :
    runPhase 3 (inPhase .idle [.submit sampleRequest, .wait, .take]) = some (.idle, 1) := by decide
theorem test_submit_in_done_is_no_move : runPhase 1 (inPhase .done [.submit sampleRequest]) = some (.done, 0) := by decide
theorem test_take_in_busy_is_no_move : runPhase 1 (inPhase .busy [.take]) = some (.busy, 0) := by decide
theorem test_reset_in_busy : runPhase 2 (inPhase .busy [.reset, .take]) = some (.idle, 0) := by decide

/-! Witnesses: for each statement with hypotheses, something that meets them, clause by clause. -/

theorem witness_IgnoredFieldsDoNotMatter :
    (∀ op : OpCode, ∃ q q' : Request, q ≠ q' ∧ q.op = op ∧ q.op = q'.op ∧
      (q.op = 0 → q.x = q'.x) ∧ (q.op = 1 → q.v = q'.v) ∧
      (q.op = 2 ∨ q.op = 3 → q.x = q'.x ∧ q.y = q'.y ∧ q.k = q'.k) ∧ (q.op = 4 → q.v = q'.v ∧ q.k = q'.k)) := by
  intro op
  by_cases h : op = 2 ∨ op = 3
  · exact ⟨⟨op, 4, 3, 7, 0⟩, ⟨op, 4, 3, 7, 1⟩, by simp, by rcases h with h | h <;> subst h <;> decide⟩
  · by_cases h' : op = 0
    · subst h'; exact ⟨⟨0, 4, 3, 7, 0⟩, ⟨0, 4, 3, 8, 0⟩, by decide⟩
    · exact ⟨⟨op, 4, 3, 7, 0⟩, ⟨op, 4, 5, 7, 0⟩, by simp, rfl, rfl, by simp_all⟩

theorem witness_StepRunsTheLatchedRequest :
    ((inPhase .busy []).phase = .busy ∧ hostWaits (inPhase .busy []) []) ∧
    ((inPhase .busy [.wait, .take]).phase = .busy ∧ hostWaits (inPhase .busy [.wait, .take]) [.take]) :=
  ⟨⟨rfl, .inr ⟨rfl, rfl⟩⟩, rfl, .inl rfl⟩

theorem witness_InterfaceTransitions :
    (∀ p, (inPhase p [.submit sampleRequest]).turns = .submit sampleRequest :: [] ∧ (inPhase p []).phase = p) ∧
    (∀ p, (inPhase p [.take, .wait]).turns = .take :: [.wait]) ∧ (∀ p, hostWaits (inPhase p [.wait]) []) :=
  ⟨fun _ => ⟨rfl, rfl⟩, fun _ => rfl, fun _ => .inl rfl⟩

theorem witness_ResetAbandons :
    (inPhase .idle [.reset]).turns = [.reset] ∧ (inPhase .idle [.reset]).phase = .idle ∧
    (inPhase .busy [.reset]).phase ≠ .idle ∧ (inPhase .done [.reset]).phase ≠ .idle := by decide

theorem witness_OnlyTheseEventsChangePhase :
    (∃ t, step (inPhase .idle [.submit sampleRequest]) = .next t ∧ t.phase ≠ .idle) ∧
    (∃ t, step (inPhase .busy []) = .next t ∧ t.phase ≠ .busy) ∧
    (∃ t, step (inPhase .done [.take]) = .next t ∧ t.phase ≠ .done) ∧
    (∃ t, step (inPhase .busy [.reset]) = .next t ∧ t.phase ≠ .busy) :=
  ⟨⟨_, rfl, by decide⟩, ⟨_, rfl, by decide⟩, ⟨_, rfl, by decide⟩, ⟨_, rfl, by decide⟩⟩

theorem witness_StepAlwaysAnswers : (inPhase .busy [.wait]).phase = .busy ∧ hostWaits (inPhase .busy [.wait]) [] :=
  ⟨rfl, .inl rfl⟩

theorem witness_OneRequestOneResponse :
    (inPhase .idle [.submit sampleRequest, .wait, .take]).phase = .idle ∧
    (inPhase .idle [.submit sampleRequest, .wait, .take]).turns = [.submit sampleRequest, .wait, .take] := ⟨rfl, rfl⟩

theorem witness_RequestsCommute : State.reset.phase = .idle := rfl

theorem witness_ExecFrame : (∃ t, exec (.msb32 7) State.reset = .next t) ∧ (∃ t, exec (.dec 0 0) State.reset = .next t) :=
  ⟨⟨_, rfl⟩, ⟨_, rfl⟩⟩

/-- `MSB32 0` and its response (95 section 2). -/
theorem answers_msb32_zero : answers { op := 0, k := 0, x := 0, y := 0, v := 0 } { status := .ok, r := 0xFFFFFFFFFFFFFFFF, rx := 0, ry := 0 } := by
  refine ⟨rfl, ?_⟩
  decide

theorem witness_HistoryKept :
    History { State.reset with
      sent := [{ op := 0, k := 0, x := 0, y := 0, v := 0 }]
      taken := [{ status := .ok, r := 0xFFFFFFFFFFFFFFFF, rx := 0, ry := 0 }] } ∧
    History { inPhase .busy [] with req := sampleRequest, sent := [sampleRequest] } ∧
    History { inPhase .done [.take] with
      rsp := { status := .ok, r := 0xFFFFFFFFFFFFFFFF, rx := 0, ry := 0 }
      sent := [{ op := 0, k := 0, x := 0, y := 0, v := 0 }] } ∧
    (∃ t, step { inPhase .busy [] with req := sampleRequest, sent := [sampleRequest] } = .next t) :=
  ⟨.cons answers_msb32_zero .nil, ⟨[], rfl, .nil⟩, .cons answers_msb32_zero .nil, ⟨_, rfl⟩⟩

theorem witness_Msb32Result : (0 : Coord) = 0 ∧ (1 : Coord) ≠ 0 ∧ isMsb (0x80000001 : Coord) 31 := by
  refine ⟨rfl, by decide, by decide, by decide, fun j hj => ?_⟩
  exact BitVec.getLsbD_of_ge _ j (by omega)

theorem witness_Msb64Result : (0 : Index) = 0 ∧ (1 : Index) ≠ 0 ∧ isMsb (0xFFFFFFFFFFFFFFFF : Index) 63 := by
  refine ⟨rfl, by decide, by decide, by decide, fun j hj => ?_⟩
  exact BitVec.getLsbD_of_ge _ j (by omega)

theorem witness_MsbEquivalents : (1 : BitVec 32) ≠ 0 ∧ (0x8000000000000000 : BitVec 64) ≠ 0 := by decide

theorem witness_RepunitValues : (1 ≤ 1 ∧ 1 ≤ 32) ∧ (1 ≤ 32 ∧ 32 ≤ 32) := by decide

theorem witness_PrtIsIterationAndClosedForm : (1 ≤ 1 ∧ 1 ≤ 32) ∧ (1 ≤ 32 ∧ 32 ≤ 32) := by decide

/-- Valid points at the ends of the range of the order: of ReflectionNormalises, UniformLevelCount, LoopVariablesEndAtMinusOne,
EncdEqualsReference, EnclEqualsReference, VariantsAgree, EncodedIndexInRange, EncodeOrderOne, RunEqualsUniformLevels and RoundTrip. -/
theorem witness_PointOk :
    PointOk 0 0 1 ∧ PointOk 1 1 1 ∧ PointOk 3 7 4 ∧ PointOk 0 0 32 ∧ PointOk 0xFFFFFFFF 0xFFFFFFFF 32 := by decide

/-- Valid indices at the ends of the range: of LoopVariablesEndAtMinusOne, ScanGivesRunLength, DecEqualsReference,
DecodedCellInRange, DecodeOrderOne and RoundTrip. -/
theorem witness_IndexOk : IndexOk 0 1 ∧ IndexOk 3 1 ∧ IndexOk 48 4 ∧ IndexOk 0 32 ∧ IndexOk 0xFFFFFFFFFFFFFFFF 32 := by decide

/-- `ENCD 3, 7, 4` has sp = 2, so i = 3 is a uniform level and i = 2 the start position (42_encoder_direct.md R150). -/
theorem witness_UniformLevelCount :
    PointOk 3 7 4 ∧ (encFront 3 7 4 State.reset.enc).sp.toInt < ((3 : Nat) : Int) ∧ 3 ≤ (4 : Order).toNat - 1 ∧
    (encFront 3 7 4 State.reset.enc).sp.toInt = ((2 : Nat) : Int) ∧ (encFront 3 7 4 State.reset.enc).m = 1 := by decide

theorem witness_DirectSeedTable :
    ∀ bx bY : Bit, ∃ w : EncRegs, 1 ≤ w.m.toNat ∧ w.m.toNat ≤ 32 ∧ w.m.toNat % 2 = 1 ∧ w.bitX = bx ∧ w.bitY = bY :=
  fun bx bY => ⟨{ State.reset.enc with bitX := bx, bitY := bY, m := 1 }, (by decide : 1 ≤ (1 : BitVec 6).toNat), (by decide : (1 : BitVec 6).toNat ≤ 32), (by decide : (1 : BitVec 6).toNat % 2 = 1),
    rfl, rfl⟩

theorem witness_DirectSeedTable_even :
    ∀ bx bY : Bit, ∃ w : EncRegs, 1 ≤ w.m.toNat ∧ w.m.toNat ≤ 32 ∧ w.m.toNat % 2 ≠ 1 ∧ w.bitX = bx ∧ w.bitY = bY :=
  fun bx bY => ⟨{ State.reset.enc with bitX := bx, bitY := bY, m := 32 }, (by decide : 1 ≤ (32 : BitVec 6).toNat), (by decide : (32 : BitVec 6).toNat ≤ 32), (by decide : (32 : BitVec 6).toNat % 2 ≠ 1),
    rfl, rfl⟩

theorem witness_LoopsLoseNoBit :
    (State.reset.enc.acc.toNat + 1) * 4 ^ 32 ≤ 2 ^ 64 ∧ (State.reset.dec.x.toNat + 1) * 2 ^ 32 ≤ 2 ^ 32 ∧
    (State.reset.dec.y.toNat + 1) * 2 ^ 32 ≤ 2 ^ 32 ∧ ((0xFFFFFFFF : Coord).toNat + 1) * 2 ^ 0 ≤ 2 ^ 32 := by decide

/-- A valid index whose digits are all equal, of DecodeWholeRun (95 section 5, `DEC 85, 4`). -/
theorem witness_DecodeWholeRun : IndexOk 85 4 ∧ ∀ j, j < (4 : Order).toNat → digitAt 85 j = digitAt 85 ((4 : Order).toNat - 1) := by
  decide

/-- The four corners at order 4 (95 section 4.5). -/
theorem witness_EncodeCorners :
    topCoord 4 = 15 ∧ PointOk 15 0 4 ∧ (reflect 15 0 4 State.reset.enc).wx = 0 ∧ (reflect 15 0 4 State.reset.enc).wy = 0 ∧
    OrderOk 1 ∧ OrderOk 32 ∧ topCoord 32 = 0xFFFFFFFF := by decide

theorem witness_EncoderFaults :
    ¬ OrderOk 0 ∧ ¬ OrderOk 33 ∧ ¬ OrderOk 63 ∧
    (OrderOk 4 ∧ 2 ^ (4 : Order).toNat ≤ (16 : Coord).toNat) ∧
    (OrderOk 4 ∧ (15 : Coord).toNat < 2 ^ (4 : Order).toNat ∧ 2 ^ (4 : Order).toNat ≤ (16 : Coord).toNat) ∧
    (OrderOk 31 ∧ 2 ^ (31 : Order).toNat ≤ (0x80000000 : Coord).toNat) := by decide

theorem witness_DecoderFaults :
    ¬ OrderOk 0 ∧ ¬ OrderOk 33 ∧ (OrderOk 1 ∧ 2 ^ (2 * (1 : Order).toNat) ≤ (4 : Index).toNat) ∧
    (OrderOk 31 ∧ 2 ^ (2 * (31 : Order).toNat) ≤ (0x4000000000000000 : Index).toNat) := by decide

theorem witness_DecoderSeeds :
    ∀ top : Digit, ∃ w : DecRegs, 1 ≤ w.run.toNat ∧ w.run.toNat ≤ 32 ∧ w.top = top :=
  fun top => ⟨{ State.reset.dec with top := top, run := 32 }, (by decide : 1 ≤ (32 : BitVec 6).toNat), (by decide : (32 : BitVec 6).toNat ≤ 32), rfl⟩

theorem witness_DecoderSeeds_odd :
    ∀ top : Digit, ∃ w : DecRegs, 1 ≤ w.run.toNat ∧ w.run.toNat ≤ 32 ∧ w.run.toNat % 2 = 1 ∧ w.top = top :=
  fun top => ⟨{ State.reset.dec with top := top, run := 1 }, (by decide : 1 ≤ (1 : BitVec 6).toNat), (by decide : (1 : BitVec 6).toNat ≤ 32), (by decide : (1 : BitVec 6).toNat % 2 = 1),
    rfl⟩

/-- The order range of DecodeWholeRun and of ConsecutiveIndicesAreNeighbours, with the first and the last index that has a next one. -/
theorem witness_ConsecutiveIndicesAreNeighbours :
    OrderOk 1 ∧ OrderOk 32 ∧ (0 : Index).toNat < 4 ^ (1 : Order).toNat - 1 ∧ (2 : Index).toNat < 4 ^ (1 : Order).toNat - 1 ∧
    (0xFFFFFFFFFFFFFFFE : Index).toNat < 4 ^ (32 : Order).toNat - 1 := by decide

theorem witness_ReservedCodesFault :
    (∃ q : Request, q.op = 5) ∧ (∃ q : Request, q.op = 6) ∧ (∃ q : Request, q.op = 7) :=
  ⟨⟨{ sampleRequest with op := 5 }, rfl⟩, ⟨{ sampleRequest with op := 6 }, rfl⟩, ⟨{ sampleRequest with op := 7 }, rfl⟩⟩

theorem witness_ChecksAreThePreconditions :
    check (.encd 15 15 4) = none ∧ check (.encl 16 16 4) = some .xRange ∧ check (.dec 255 4) = none ∧
    check (.dec 256 4) = some .indexRange := by decide

/-- The IndexRange request of 95 Program 3. -/
theorem witness_FaultLeavesNoTrace :
    State.reset.phase = .idle ∧ check (decodeRequest { sampleRequest with v := 256 }) = some .indexRange := by decide

end Sys2Proof.Tests
end

/-! What an operation's answer is made of, and that nothing the machine held before has a part in it (00_scope.md R5, 10_state.md R27). -/

namespace Sys2Proof.Machine

open Sys2Proof.Safety

/-- The answer of an operation that finds the working registers w and u: the fault of its checks, or else its result. -/
def execAnswer (w : EncRegs) (u : DecRegs) : Instr → Answer
  | .msb32 x => .value (sext64 (msb32 x))
  | .msb64 v => .value (sext64 (msb64 v))
  | .encd x y k => (checkEncode x y k).elim (.value (runDirect x y k w).acc) .fault
  | .encl x y k => (checkEncode x y k).elim (.value (runTable x y k w).acc) .fault
  | .dec v k => (checkDecode v k).elim (.cell (runDecode v k u).x (runDecode v k u).y) .fault
  | .reserved5 => .fault .illegalOp
  | .reserved6 => .fault .illegalOp
  | .reserved7 => .fault .illegalOp

/-- Every operation is the completion with `execAnswer`, from the working registers as they stand. -/
theorem exec_eq_completed_execAnswer (i : Instr) (s : State) :
    exec i s = .next (completed (execAnswer s.enc s.dec i) s) := by
  cases i with
  | msb32 x => rfl
  | msb64 v => rfl
  | encd x y k =>
    simp only [exec, execEncd, execAnswer]
    cases checkEncode x y k <;> rfl
  | encl x y k =>
    simp only [exec, execEncl, execAnswer]
    cases checkEncode x y k <;> rfl
  | dec v k =>
    simp only [exec, execDec, execAnswer]
    cases checkDecode v k <;> rfl
  | reserved5 => rfl
  | reserved6 => rfl
  | reserved7 => rfl

/-! The encoders write each of their working registers before they read it. -/

/-- Steps 1 to 3 of ENCD and the start of `i` write all nine registers between them. -/
theorem runDirect_any_registers (x y : Coord) (k : Order) (w w' : EncRegs) :
    runDirect x y k w = runDirect x y k w' := rfl

/-- Steps 1 to 3 of ENCL and the start of `i` write all nine registers between them. -/
theorem runTable_any_registers (x y : Coord) (k : Order) (w w' : EncRegs) :
    runTable x y k w = runTable x y k w' := rfl

/-! The decoder leaves one of `p` and `q` unwritten, and reads the other one only. -/

theorem digit_cases (d : Digit) : d = 0#2 ∨ d = 1#2 ∨ d = 2#2 ∨ d = 3#2 := by
  revert d
  decide

/-- The run length rests on the index, the order and the quadrant: the scan writes the register it is read from. -/
theorem runLength_scanRun_run_congr (v : Index) (k : Order) {w w' : DecRegs} (htop : w.top = w'.top) :
    (runLength k (scanRun v k w)).run = (runLength k (scanRun v k w')).run := by
  have htop' := htop.symm
  rcases digit_cases w.top with h | h | h | h <;> rw [h] at htop' <;> simp only [runLength, scanRun, h, htop']

/-- The seeds and the initial state rest on the quadrant and the run length. -/
theorem seedQuadrant_congr {w w' : DecRegs} (htop : w.top = w'.top) (hrun : w.run = w'.run) :
    (seedQuadrant w).x = (seedQuadrant w').x ∧ (seedQuadrant w).y = (seedQuadrant w').y ∧
      (seedQuadrant w).st = (seedQuadrant w').st := by
  have htop' := htop.symm
  rcases digit_cases w.top with h | h | h | h <;> rw [h] at htop' <;> simp [seedQuadrant, h, htop', hrun]

/-- Step 1 of DEC gives the same run length, seeds and state from any registers. -/
theorem decFront_any_registers (v : Index) (k : Order) (w w' : DecRegs) :
    (decFront v k w).run = (decFront v k w').run ∧ (decFront v k w).x = (decFront v k w').x ∧
      (decFront v k w).y = (decFront v k w').y ∧ (decFront v k w).st = (decFront v k w').st := by
  have htop : (runLength k (scanRun v k (classify v k w))).top = (runLength k (scanRun v k (classify v k w'))).top := by
    simp only [runLength_top, scanRun_top, classify_top]
  have hrun : (runLength k (scanRun v k (classify v k w))).run = (runLength k (scanRun v k (classify v k w'))).run :=
    runLength_scanRun_run_congr v k rfl
  refine ⟨?_, seedQuadrant_congr htop hrun⟩
  simpa only [decFront, seedQuadrant_run] using hrun

/-- DEC ends as the reference decoder's levels do from the run length, the seeds and the state of step 1. -/
theorem runDecode_eq_refDecodeFrom (v : Index) (k : Order) (w : DecRegs) :
    ((runDecode v k w).x, (runDecode v k w).y, (runDecode v k w).st) =
      refDecodeFrom v (k.toNat - (decFront v k w).run.toNat)
        ((decFront v k w).x, (decFront v k w).y, (decFront v k w).st) :=
  decDigits_xy_st v _ _

/-- DEC gives the same cell from any registers. -/
theorem runDecode_cell_any_registers (v : Index) (k : Order) (w w' : DecRegs) :
    (runDecode v k w).x = (runDecode v k w').x ∧ (runDecode v k w).y = (runDecode v k w').y := by
  obtain ⟨hrun, hx, hy, hst⟩ := decFront_any_registers v k w w'
  have hcell : ((runDecode v k w).x, (runDecode v k w).y, (runDecode v k w).st) =
      ((runDecode v k w').x, (runDecode v k w').y, (runDecode v k w').st) := by
    rw [runDecode_eq_refDecodeFrom, runDecode_eq_refDecodeFrom, hrun, hx, hy, hst]
  exact ⟨congrArg (·.1) hcell, congrArg (·.2.1) hcell⟩

/-- No answer rests on what the working registers held before (10_state.md R27). -/
theorem execAnswer_any_registers (i : Instr) (w w' : EncRegs) (u u' : DecRegs) :
    execAnswer w u i = execAnswer w' u' i := by
  cases i with
  | encd x y k => simp only [execAnswer, runDirect_any_registers x y k w w']
  | encl x y k => simp only [execAnswer, runTable_any_registers x y k w w']
  | dec v k =>
    obtain ⟨hx, hy⟩ := runDecode_cell_any_registers v k u u'
    simp only [execAnswer, hx, hy]
  | _ => rfl

/-! Two responses that carry one answer agree on what the operation writes. -/

/-- The answer, unless it is a fault, names every field the operation writes (30_encoding.md R72). -/
def namesWrites (i : Instr) : Answer → Prop
  | .value _ => writesCell i = false
  | .cell _ _ => writesR i = false
  | .fault _ => True

theorem namesWrites_execAnswer (w : EncRegs) (u : DecRegs) (i : Instr) : namesWrites i (execAnswer w u i) := by
  cases i with
  | msb32 x => rfl
  | msb64 v => rfl
  | encd x y k => simp only [execAnswer]; cases checkEncode x y k <;> trivial
  | encl x y k => simp only [execAnswer]; cases checkEncode x y k <;> trivial
  | dec v k => simp only [execAnswer]; cases checkDecode v k <;> trivial
  | reserved5 => trivial
  | reserved6 => trivial
  | reserved7 => trivial

theorem agreeOn_of_carries {i : Instr} {a : Answer} {t u : Response} (hw : namesWrites i a)
    (ht : carries t a) (hu : carries u a) : agreeOn i t u := by
  cases a with
  | value r =>
    obtain ⟨hts, htr⟩ := ht
    obtain ⟨hus, hur⟩ := hu
    have hcell : writesCell i = false := hw
    exact ⟨hts.trans hus.symm, fun _ => ⟨fun _ => htr.trans hur.symm, by simp [hcell]⟩⟩
  | cell rx ry =>
    obtain ⟨hts, htx, hty⟩ := ht
    obtain ⟨hus, hux, huy⟩ := hu
    have hr : writesR i = false := hw
    exact ⟨hts.trans hus.symm, fun _ => ⟨by simp [hr], fun _ => ⟨htx.trans hux.symm, hty.trans huy.symm⟩⟩⟩
  | fault f =>
    have hts : t.status = .fault f := ht
    have hus : u.status = .fault f := hu
    exact ⟨hts.trans hus.symm, fun hok => by simp [hts] at hok⟩

/-- Settles O15: both states complete with the same answer, because no answer rests on the working registers. -/
theorem responseDependsOnRequestAlone : Obligations.ResponseDependsOnRequestAlone := by
  unfold Obligations.ResponseDependsOnRequestAlone
  intro i s s'
  refine ⟨_, _, exec_eq_completed_execAnswer i s, exec_eq_completed_execAnswer i s', ?_⟩
  rw [execAnswer_any_registers i s'.enc s.enc s'.dec s.dec]
  exact agreeOn_of_carries (namesWrites_execAnswer s.enc s.dec i) (carries_toResponse _ _) (carries_toResponse _ _)

end Sys2Proof.Machine

/-! The packed words: `toNat` of an append shifts the higher part past the lower (30_encoding.md R70, R71), and a field is read
back by peeling the lower fields off, least significant first. -/

namespace Sys2Proof

namespace Request

/-- The packed integer of R70. -/
theorem pack_toNat (q : Request) :
    q.pack.toNat =
      (q.op.toNat ||| q.k.toNat <<< 3 ||| q.x.toNat <<< 9 ||| q.y.toNat <<< 41 ||| q.v.toNat <<< 73) := by
  rw [pack, BitVec.toNat_append, BitVec.toNat_append, BitVec.toNat_append, BitVec.toNat_append]
  simp only [Nat.shiftLeft_or_distrib, ← Nat.shiftLeft_add, Nat.reduceAdd, Nat.or_assoc, Nat.or_comm]

@[simp] theorem pack_extract_op (q : Request) : q.pack.extractLsb' 0 3 = q.op :=
  BitVec.extractLsb'_append_eq_right

@[simp] theorem pack_extract_k (q : Request) : q.pack.extractLsb' 3 6 = q.k := by
  rw [pack, BitVec.extractLsb'_append_eq_of_le (by decide)]
  exact BitVec.extractLsb'_append_eq_right

@[simp] theorem pack_extract_x (q : Request) : q.pack.extractLsb' 9 32 = q.x := by
  rw [pack, BitVec.extractLsb'_append_eq_of_le (by decide), BitVec.extractLsb'_append_eq_of_le (by decide)]
  exact BitVec.extractLsb'_append_eq_right

@[simp] theorem pack_extract_y (q : Request) : q.pack.extractLsb' 41 32 = q.y := by
  rw [pack, BitVec.extractLsb'_append_eq_of_le (by decide), BitVec.extractLsb'_append_eq_of_le (by decide),
    BitVec.extractLsb'_append_eq_of_le (by decide)]
  exact BitVec.extractLsb'_append_eq_right

@[simp] theorem pack_extract_v (q : Request) : q.pack.extractLsb' 73 64 = q.v := by
  rw [pack, BitVec.extractLsb'_append_eq_of_le (by decide), BitVec.extractLsb'_append_eq_of_le (by decide),
    BitVec.extractLsb'_append_eq_of_le (by decide)]
  exact BitVec.extractLsb'_append_eq_left

/-- Unpacking loses nothing of a request: its five fields are read back one by one. -/
@[simp] theorem unpack_pack (q : Request) : unpack q.pack = q := by
  rw [unpack, pack_extract_op, pack_extract_k, pack_extract_x, pack_extract_y, pack_extract_v]

/-- The five fields leave no gap in the word: adjacent ones join, most significant first, up to the whole word. -/
@[simp] theorem pack_unpack (w : ReqWord) : (unpack w).pack = w := by
  simp only [pack, unpack]
  rw [BitVec.extractLsb'_append_extractLsb'_eq_extractLsb' (start₂ := 73) (start₁ := 41) rfl,
    BitVec.extractLsb'_append_extractLsb'_eq_extractLsb' (start₂ := 41) (start₁ := 9) rfl,
    BitVec.extractLsb'_append_extractLsb'_eq_extractLsb' (start₂ := 9) (start₁ := 3) rfl,
    BitVec.extractLsb'_append_extractLsb'_eq_extractLsb' (start₂ := 3) (start₁ := 0) rfl]
  exact BitVec.extractLsb'_eq_self

end Request

/-- Settles O2: R70's integer, the five field positions, and the two inverses, each its own lemma. -/
theorem requestWordFormat : Obligations.RequestWordFormat := by
  unfold Obligations.RequestWordFormat
  exact ⟨fun q => ⟨q.pack_toNat, q.pack_extract_op, q.pack_extract_k, q.pack_extract_x, q.pack_extract_y,
    q.pack_extract_v, q.unpack_pack⟩, Request.pack_unpack⟩

/-- Two requests with one operation code and the same fields that operation reads select the same operation
(30_encoding.md R72, R73): one case for each branch of `decodeRequest`. -/
theorem decodeRequest_congr {q q' : Request} (hop : q.op = q'.op) (hmsb32 : q.op = 0 → q.x = q'.x)
    (hmsb64 : q.op = 1 → q.v = q'.v) (henc : q.op = 2 ∨ q.op = 3 → q.x = q'.x ∧ q.y = q'.y ∧ q.k = q'.k)
    (hdec : q.op = 4 → q.v = q'.v ∧ q.k = q'.k) : decodeRequest q = decodeRequest q' := by
  unfold decodeRequest
  rw [← hop]
  split
  next h => rw [hmsb32 h]
  next h => rw [hmsb64 h]
  next h =>
    obtain ⟨hx, hy, hk⟩ := henc (.inl h)
    rw [hx, hy, hk]
  next h =>
    obtain ⟨hx, hy, hk⟩ := henc (.inr h)
    rw [hx, hy, hk]
  next h =>
    obtain ⟨hv, hk⟩ := hdec h
    rw [hv, hk]
  next => rfl
  next => rfl
  next => rfl

end Sys2Proof

namespace Sys2Proof.Machine

namespace Response

/-- The packed integer of R71. -/
theorem pack_toNat (t : Response) :
    t.pack.toNat = (t.status.code.toNat ||| t.r.toNat <<< 3 ||| t.rx.toNat <<< 67 ||| t.ry.toNat <<< 99) := by
  rw [pack, BitVec.toNat_append, BitVec.toNat_append, BitVec.toNat_append]
  simp only [Nat.shiftLeft_or_distrib, ← Nat.shiftLeft_add, Nat.reduceAdd, Nat.or_assoc, Nat.or_comm, Nat.or_left_comm]

@[simp] theorem pack_extract_status (t : Response) : t.pack.extractLsb' 0 3 = t.status.code :=
  BitVec.extractLsb'_append_eq_right

@[simp] theorem pack_extract_r (t : Response) : t.pack.extractLsb' 3 64 = t.r := by
  rw [pack, BitVec.extractLsb'_append_eq_of_le (by decide)]
  exact BitVec.extractLsb'_append_eq_right

@[simp] theorem pack_extract_rx (t : Response) : t.pack.extractLsb' 67 32 = t.rx := by
  rw [pack, BitVec.extractLsb'_append_eq_of_le (by decide), BitVec.extractLsb'_append_eq_of_le (by decide)]
  exact BitVec.extractLsb'_append_eq_right

@[simp] theorem pack_extract_ry (t : Response) : t.pack.extractLsb' 99 32 = t.ry := by
  rw [pack, BitVec.extractLsb'_append_eq_of_le (by decide), BitVec.extractLsb'_append_eq_of_le (by decide)]
  exact BitVec.extractLsb'_append_eq_left

end Response

/-- Settles O3: R71's integer and the four field positions, each its own lemma. -/
theorem responseWordFormat : Obligations.ResponseWordFormat := by
  unfold Obligations.ResponseWordFormat
  exact fun t => ⟨t.pack_toNat, t.pack_extract_status, t.pack_extract_r, t.pack_extract_rx, t.pack_extract_ry⟩

/-- Settles O6: the two requests select one operation, and its response rests on that operation alone
(`responseDependsOnRequestAlone`). -/
theorem ignoredFieldsDoNotMatter : Obligations.IgnoredFieldsDoNotMatter := by
  unfold Obligations.IgnoredFieldsDoNotMatter
  intro q q' s s' hop hmsb32 hmsb64 henc hdec
  rw [← decodeRequest_congr hop hmsb32 hmsb64 henc hdec]
  exact responseDependsOnRequestAlone (decodeRequest q) s s'

end Sys2Proof.Machine

/-! The bit scan (40_bitscan.md R100 to R104): the scan of n is the one number from −1 up that is below a position p
exactly when n is below 2^p. Each equivalent form of R104 is read off from that. -/

namespace Sys2Proof.Machine

open Sys2Proof.Safety

/-- The scan finds no bit, or the highest one. -/
theorem msb_cases {w : Nat} (n : BitVec w) : (n = 0#w ∧ msb n = -1) ∨ ∃ p, isMsb n p ∧ msb n = (p : Int) := by
  rcases msbBelow_cases n w with ⟨hscan, hclear⟩ | ⟨p, hp, hscan, hset, hclear⟩
  · exact .inl ⟨BitVec.eq_of_getLsbD_eq fun i hi => by simp [hclear i hi], hscan⟩
  · refine .inr ⟨p, ⟨hp, hset, fun j hj => ?_⟩, hscan⟩
    rcases Nat.lt_or_ge j w with hjw | hjw
    · exact hclear j hj hjw
    · exact BitVec.getLsbD_of_ge n j hjw

theorem not_isMsb_zero {w : Nat} (p : Nat) : ¬ isMsb (0#w) p := by
  rintro ⟨-, hset, -⟩
  simp at hset

@[simp] theorem msb_zero (w : Nat) : msb (0#w) = -1 := by
  rcases msb_cases (0#w) with ⟨-, hscan⟩ | ⟨p, hp, -⟩
  · exact hscan
  · exact absurd hp (not_isMsb_zero p)

theorem exists_isMsb_of_ne_zero {w : Nat} {n : BitVec w} (hn : n ≠ 0#w) : ∃ p, isMsb n p ∧ msb n = (p : Int) := by
  rcases msb_cases n with ⟨h0, -⟩ | h
  · exact absurd h0 hn
  · exact h

theorem neg_one_le_msb {w : Nat} (n : BitVec w) : -1 ≤ msb n := by
  rcases msb_cases n with ⟨-, h⟩ | ⟨p, -, h⟩ <;> omega

theorem msb_lt_width {w : Nat} (n : BitVec w) : msb n < (w : Int) := by
  rcases msb_cases n with ⟨-, h⟩ | ⟨p, ⟨hp, -, -⟩, h⟩ <;> omega

/-- The signed 7-bit registers hold a scan as it is, at either width (10_state.md R25, R26). -/
theorem toInt_ofInt_msb {w : Nat} (hw : w ≤ 64) (n : BitVec w) : (BitVec.ofInt 7 (msb n)).toInt = msb n := by
  have hlow := neg_one_le_msb n
  have hhigh := msb_lt_width n
  exact BitVec.toInt_ofInt_eq_self (by decide) (by omega) (by omega)

/-- A word is below 2^p exactly when it has no bit at or above p. -/
theorem toNat_lt_two_pow_iff_getLsbD {w : Nat} (n : BitVec w) (p : Nat) :
    n.toNat < 2 ^ p ↔ ∀ j, p ≤ j → n.getLsbD j = false := by
  constructor
  · intro hlt j hj
    rw [← BitVec.testBit_toNat]
    exact Nat.testBit_lt_two_pow (hlt.trans_le (Nat.pow_le_pow_right Nat.two_pos hj))
  · intro hclear
    refine Nat.lt_pow_two_of_testBit _ fun j hj => ?_
    rw [BitVec.testBit_toNat]
    exact hclear j hj

/-- The scan is below p exactly when every set bit is. -/
theorem msb_lt_iff_getLsbD {w : Nat} (n : BitVec w) (p : Nat) :
    msb n < (p : Int) ↔ ∀ j, p ≤ j → n.getLsbD j = false := by
  rcases msb_cases n with ⟨rfl, hscan⟩ | ⟨q, ⟨-, hset, hclear⟩, hscan⟩
  · simp only [BitVec.getLsbD_zero, implies_true, iff_true]
    omega
  · rw [hscan]
    constructor
    · exact fun hqp j hj => hclear j (by omega)
    · intro hclear'
      by_contra hqp
      simp [hclear' q (by omega)] at hset

theorem msb_lt_iff {w : Nat} (n : BitVec w) (p : Nat) : msb n < (p : Int) ↔ n.toNat < 2 ^ p := by
  rw [msb_lt_iff_getLsbD, toNat_lt_two_pow_iff_getLsbD]

/-- A number from −1 up that is below p exactly when n is below 2^p is the scan of n. -/
theorem msb_eq_of_lt_iff {w : Nat} {n : BitVec w} {z : Int} (hz : -1 ≤ z)
    (h : ∀ p : Nat, z < (p : Int) ↔ n.toNat < 2 ^ p) : msb n = z := by
  have hn := neg_one_le_msb n
  have above_msb : z < ((msb n + 1).toNat : Int) := (h _).mpr ((msb_lt_iff n _).mp (by omega))
  have above_z : msb n < ((z + 1).toNat : Int) := (msb_lt_iff n _).mpr ((h _).mp (by omega))
  omega

/-- floor(log2 n) (40_bitscan.md R104). -/
theorem msb_eq_log2 {w : Nat} {n : BitVec w} (hn : n ≠ 0#w) : msb n = (Nat.log2 n.toNat : Int) := by
  refine msb_eq_of_lt_iff (by omega) fun p => ?_
  have hn' : n.toNat ≠ 0 := BitVec.toNat_ne_iff_ne.mpr hn
  rw [Int.ofNat_lt, Nat.log2_lt hn']

/-- W − 1 − clz, n = 0 included (40_bitscan.md R104). -/
theorem msb_eq_sub_clz {w : Nat} (hw : 0 < w) (n : BitVec w) : msb n = (w : Int) - 1 - (n.clz.toNat : Int) := by
  have natCast_toNat : (w : BitVec w).toNat = w := by
    simp [BitVec.natCast_eq_ofNat]
  by_cases hn : n = 0#w
  · have hclz : n.clz = (w : BitVec w) := BitVec.clz_eq_iff_eq_zero.mpr hn
    rw [hclz, natCast_toNat, hn, msb_zero]
    omega
  · have hclz : n.clz.toNat < w := by
      have := BitVec.lt_def.mp (BitVec.clz_lt_iff_ne_zero.mpr hn)
      rwa [natCast_toNat] at this
    have hlow := BitVec.two_pow_sub_clz_le_toNat_of_ne_zero hw hn
    have hhigh : n.toNat < 2 ^ (w - 1 - n.clz.toNat + 1) := by
      have := BitVec.toNat_lt_two_pow_sub_clz (x := n)
      rwa [show w - 1 - n.clz.toNat + 1 = w - n.clz.toNat by omega]
    have hn' : n.toNat ≠ 0 := BitVec.toNat_ne_iff_ne.mpr hn
    rw [msb_eq_log2 hn, (Nat.log2_eq_iff hn').mpr ⟨hlow, hhigh⟩]
    omega

theorem msb_setWidth_of_le {w w' : Nat} (h : w ≤ w') (n : BitVec w) : msb (n.setWidth w') = msb n :=
  msb_eq_of_lt_iff (neg_one_le_msb n) fun p => by rw [BitVec.toNat_setWidth_of_le h, msb_lt_iff]

theorem msb_or {w : Nat} (a b : BitVec w) : msb (a ||| b) = max (msb a) (msb b) := by
  refine msb_eq_of_lt_iff (le_max_of_le_left (neg_one_le_msb a)) fun p => ?_
  rw [max_lt_iff, msb_lt_iff_getLsbD, msb_lt_iff_getLsbD, toNat_lt_two_pow_iff_getLsbD]
  simp only [BitVec.getLsbD_or, Bool.or_eq_false_iff, imp_and, forall_and]

theorem toNat_maxCoord (a b : Coord) : (maxCoord a b).toNat = max a.toNat b.toNat := by
  unfold maxCoord
  split <;> omega

theorem msb_maxCoord (a b : Coord) : msb (maxCoord a b) = max (msb a) (msb b) := by
  refine msb_eq_of_lt_iff (le_max_of_le_left (neg_one_le_msb a)) fun p => ?_
  rw [toNat_maxCoord, max_lt_iff, max_lt_iff, msb_lt_iff, msb_lt_iff]

/-- Settles O22: each form is the scan's general law at its width. -/
theorem msbEquivalents : Obligations.MsbEquivalents := by
  unfold Obligations.MsbEquivalents
  exact ⟨msb_eq_sub_clz (by decide), msb_eq_sub_clz (by decide), fun _ => msb_eq_log2, fun _ => msb_eq_log2,
    msb_setWidth_of_le (by decide), fun a b => ⟨msb_maxCoord a b, (msb_maxCoord a b).trans (msb_or a b).symm⟩⟩

@[simp] theorem sext64_neg_one : sext64 (-1) = BitVec.allOnes 64 := rfl

@[simp] theorem sext64_natCast (p : Nat) : sext64 (p : Int) = BitVec.ofNat 64 p := BitVec.ofInt_natCast 64 p

/-- The result of a scan at either width: the sentinel, or the position of the highest set bit (40_bitscan.md R101, R102). -/
theorem sext64_msb_spec {w : Nat} (n : BitVec w) :
    (n = 0#w → sext64 (msb n) = BitVec.allOnes 64) ∧
      (n ≠ 0#w → ∃ p, isMsb n p ∧ sext64 (msb n) = BitVec.ofNat 64 p) := by
  constructor
  · rintro rfl
    rw [msb_zero, sext64_neg_one]
  · intro hn
    obtain ⟨p, hp, hscan⟩ := exists_isMsb_of_ne_zero hn
    exact ⟨p, hp, by rw [hscan, sext64_natCast]⟩

/-- Settles O20: MSB32 answers the sign-extended scan of x, which `sext64_msb_spec` describes. -/
theorem msb32Result : Obligations.Msb32Result := by
  unfold Obligations.Msb32Result
  exact fun x s => ⟨_, exec_eq_completed_execAnswer (.msb32 x) s, rfl, rfl, sext64_msb_spec x⟩

/-- Settles O21: MSB64 answers the sign-extended scan of v, which `sext64_msb_spec` describes. -/
theorem msb64Result : Obligations.Msb64Result := by
  unfold Obligations.Msb64Result
  exact fun v s => ⟨_, exec_eq_completed_execAnswer (.msb64 v) s, rfl, rfl, sext64_msb_spec v⟩

/-- The sign-extended scan is the reference's floor(log2 n) or sentinel (40_bitscan.md R104). -/
theorem sext64_msb_eq_refScan {w : Nat} (n : BitVec w) : sext64 (msb n) = refScan n.toNat := by
  by_cases hn : n = 0#w
  · simp [hn, refScan]
  · have hn' : n.toNat ≠ 0 := BitVec.toNat_ne_iff_ne.mpr hn
    rw [msb_eq_log2 hn, sext64_natCast, refScan, if_neg hn']

end Sys2Proof.Machine

/-! The checks, in terms of the documented ranges (60_exceptions.md R193 to R197). -/

namespace Sys2Proof.Machine

open Sys2Proof.Safety

theorem orderFails_iff (k : Order) : orderFails k = true ↔ ¬ OrderOk k := by
  have hzero : k = 0#6 ↔ k.toNat = 0 := BitVec.toNat_inj.symm
  simp only [orderFails, BitVec.ofNat_eq_ofNat, Bool.or_eq_true, beq_iff_eq, decide_eq_true_eq, hzero, OrderOk]
  omega

/-- What is left of a word shifted right by p is not zero exactly when the word reaches 2^p. -/
theorem ushiftRight_ne_zero_iff {w : Nat} (n : BitVec w) (p : Nat) : (n >>> p != 0#w) = true ↔ ¬ n.toNat < 2 ^ p := by
  rw [bne_iff_ne, ← BitVec.toNat_ne_iff_ne, BitVec.toNat_ushiftRight, Nat.shiftRight_eq_div_pow, BitVec.toNat_zero,
    Ne, Nat.div_eq_zero_iff_lt (Nat.two_pow_pos p)]

theorem coordFails_iff (x : Coord) (k : Order) : coordFails x k = true ↔ ¬ x.toNat < 2 ^ k.toNat :=
  ushiftRight_ne_zero_iff x k.toNat

/-- At order 32 every index is in range, and the shift is not looked at. -/
theorem indexFails_iff {k : Order} (hk : OrderOk k) (v : Index) :
    indexFails v k = true ↔ ¬ v.toNat < 2 ^ (2 * k.toNat) := by
  have hshift := ushiftRight_ne_zero_iff v (2 * k.toNat)
  rw [indexFails, Bool.and_eq_true, decide_eq_true_eq]
  rcases Nat.lt_or_ge k.toNat 32 with hlt | hge
  · exact (and_iff_right hlt).trans hshift
  · have hv : v.toNat < 2 ^ (2 * k.toNat) := v.isLt.trans_le (Nat.pow_le_pow_right Nat.two_pos (by omega))
    simp [hge, hv]

theorem checkEncode_eq (x y : Coord) (k : Order) :
    checkEncode x y k =
      if ¬ OrderOk k then some .orderRange
      else if ¬ x.toNat < 2 ^ k.toNat then some .xRange
      else if ¬ y.toNat < 2 ^ k.toNat then some .yRange
      else none := by
  simp only [checkEncode, orderFails_iff, coordFails_iff]

theorem checkDecode_eq (v : Index) (k : Order) :
    checkDecode v k =
      if ¬ OrderOk k then some .orderRange
      else if ¬ v.toNat < 2 ^ (2 * k.toNat) then some .indexRange
      else none := by
  by_cases hk : OrderOk k
  · simp only [checkDecode, orderFails_iff, indexFails_iff hk]
  · simp only [checkDecode, orderFails_iff, hk, not_false_eq_true, if_true]

/-- The encoders' answer is the reference's when their result is, on every valid point. -/
theorem elim_checkEncode_eq_refAnswer {x y : Coord} {k : Order} {acc : Index}
    (hacc : PointOk x y k → acc = refEncode x y k.toNat) :
    (checkEncode x y k).elim (.value acc) .fault = refAnswer (.encd x y k) := by
  simp only [checkEncode_eq, refAnswer]
  split_ifs with hk hx hy
  · rw [hacc ⟨hk, hx, hy⟩]
    rfl
  · rfl
  · rfl
  · rfl

/-- The decoder's answer is the reference's when its cell is, on every valid index. -/
theorem elim_checkDecode_eq_refAnswer {v : Index} {k : Order} {c : Coord × Coord}
    (hcell : IndexOk v k → c = refDecode v k.toNat) :
    (checkDecode v k).elim (.cell c.1 c.2) .fault = refAnswer (.dec v k) := by
  simp only [checkDecode_eq, refAnswer]
  split_ifs with hk hv
  · rw [hcell ⟨hk, hv⟩]
    rfl
  · rfl
  · rfl

end Sys2Proof.Machine

/-! The encode table under one repeated input: from S0 it emits one digit for ever, so the partial index is a scaled repunit
(41_tables.md R116 to R120). -/

namespace Sys2Proof.Machine

/-- The base-4 repunit grows by one digit (41_tables.md R117). -/
theorem repunit_succ : ∀ m < 32, repunit (m + 1) = (repunit m <<< 2) ||| 1#64 := by decide

/-- Scaling a partial index that takes one more digit 1 is taking one more digit d. -/
theorem scale_shiftLeft_or_one (d : Digit) (a : Index) :
    scale d ((a <<< 2) ||| 1#64) = (scale d a <<< 2) ||| d.setWidth 64 := by
  rcases digit_cases d with rfl | rfl | rfl | rfl
  · simp [scale]
  · rfl
  · simp [scale, BitVec.shiftLeft_or_distrib, ← BitVec.shiftLeft_add]
  · have hthree : BitVec.setWidth 64 3#2 = 1#64 ||| 1#64 <<< 1 := by decide
    simp only [scale, hthree, BitVec.shiftLeft_or_distrib, ← BitVec.shiftLeft_add, Nat.reduceAdd]
    ac_rfl

theorem runState_add_two (d : Digit) (m : Nat) : runState d (m + 2) = runState d m := by
  simp only [runState, Nat.add_mod_right]

/-- One more level with the input (bx, bY), in the state that m of them lead to, emits the top digit and flips the parity. -/
theorem encTT_runState (bx bY : Bit) (m : Nat) :
    encDigit (romRead encTT (encIndex (runState (topDigit bx bY) m) bx bY)) = topDigit bx bY ∧
      encNext (romRead encTT (encIndex (runState (topDigit bx bY) m) bx bY)) = runState (topDigit bx bY) (m + 1) := by
  induction m using Nat.twoStepInduction with
  | zero => revert bx bY; decide
  | one => revert bx bY; decide
  | more m ih _ => rwa [runState_add_two, runState_add_two]

theorem prtClosed_zero : ∀ bx bY : Bit, prtClosed bx bY 0 = (0, S0) := by decide

/-- The closed form advances as the table does (41_tables.md R118, R119). -/
theorem prtIterFrom_one_prtClosed (bx bY : Bit) {m : Nat} (hm : m < 32) :
    prtIterFrom bx bY 1 (prtClosed bx bY m) = prtClosed bx bY (m + 1) := by
  obtain ⟨hdigit, hnext⟩ := encTT_runState bx bY m
  simp only [prtIterFrom, prtClosed, hdigit, hnext, repunit_succ m hm, scale_shiftLeft_or_one]

/-- Every entry of the printed PRT is the closed form (41_tables.md R119, R120). -/
theorem romRead_prt_eq_prtClosed : ∀ (bx bY : Bit) (m : BitVec 6), 1 ≤ m.toNat → m.toNat ≤ 32 →
    (prtPartial (romRead prt (prtIndex bx bY m)), prtState (romRead prt (prtIndex bx bY m))) =
      prtClosed bx bY m.toNat := by
  decide

end Sys2Proof.Machine

/-! The encoders: the skipped levels are uniform, so both variants end as the reference automaton does
(42_encoder_direct.md R140 to R145, 43_encoder_lut.md R161). -/

namespace Sys2Proof.Machine

open Sys2Proof.Safety

/-- The reference encoder skips m uniform levels at the top by the closed form. -/
theorem refEncodeFrom_uniform (x y : Coord) (bx bY : Bit) (n m : Nat) (hm : m ≤ 32)
    (huniform : ∀ i, n ≤ i → i < n + m → bitAt x i = bx ∧ bitAt y i = bY) :
    refEncodeFrom x y (n + m) (0, S0) = refEncodeFrom x y n (prtClosed bx bY m) := by
  induction m generalizing n with
  | zero => rw [prtClosed_zero, Nat.add_zero]
  | succ m ih =>
    obtain ⟨hx, hy⟩ := huniform n (Nat.le_refl n) (by omega)
    calc refEncodeFrom x y (n + (m + 1)) (0, S0)
        = refEncodeFrom x y (n + 1 + m) (0, S0) := by rw [Nat.add_right_comm n 1 m, Nat.add_assoc]
      _ = refEncodeFrom x y (n + 1) (prtClosed bx bY m) :=
        ih (n + 1) (by omega) fun i hi hi' => huniform i (by omega) (by omega)
      _ = refEncodeFrom x y n (prtIterFrom bx bY 1 (prtClosed bx bY m)) := by
        simp only [refEncodeFrom, prtIterFrom, hx, hy]
      _ = refEncodeFrom x y n (prtClosed bx bY (m + 1)) := by rw [prtIterFrom_one_prtClosed bx bY (by omega)]

theorem getLsbD_ones {n : Nat} (hn : n ≤ 32) (i : Nat) : (ones n).getLsbD i = decide (i < n) := by
  have hallOnes : (0xFFFF_FFFF#32) = BitVec.allOnes 32 := by decide
  rw [ones, hallOnes, BitVec.getLsbD_ushiftRight, BitVec.getLsbD_allOnes, decide_eq_decide]
  omega

theorem bitAt_eq_iff (x : Coord) (i : Nat) (b : Bit) : bitAt x i = b ↔ x.getLsbD i = b.getLsbD 0 := by
  have hbit : (bitAt x i).getLsbD 0 = x.getLsbD i := by simp [bitAt]
  rw [← hbit]
  constructor
  · rintro rfl
    rfl
  · intro h
    refine BitVec.eq_of_getLsbD_eq fun j hj => ?_
    obtain rfl : j = 0 := by omega
    exact h

/-- Below bit k, a working copy is clear exactly where the coordinate has its reflection bit (42_encoder_direct.md R141). -/
theorem getLsbD_workingCopy_eq_false_iff (x : Coord) {k : Order} (hk : k.toNat ≤ 32) (b : Bit) {i : Nat}
    (hi : i < k.toNat) : (workingCopy x k b).getLsbD i = false ↔ bitAt x i = b := by
  rw [bitAt_eq_iff]
  obtain rfl | rfl : b = 0#1 ∨ b = 1#1 := by revert b; decide
  · rfl
  · have hcopy : (workingCopy x k 1#1).getLsbD i = !x.getLsbD i := by
      have hi32 : i < 32 := by omega
      rw [show workingCopy x k 1#1 = ~~~x &&& ones k.toNat from rfl, BitVec.getLsbD_and, BitVec.getLsbD_not, getLsbD_ones hk]
      simp only [hi, hi32, decide_true, Bool.true_and, Bool.and_true]
    simp [hcopy]

/-- A working copy of a coordinate in range has no bit at or above k. -/
theorem getLsbD_workingCopy_of_ge {x : Coord} {k : Order} (hk : k.toNat ≤ 32) (hx : x.toNat < 2 ^ k.toNat) (b : Bit)
    {i : Nat} (hi : k.toNat ≤ i) : (workingCopy x k b).getLsbD i = false := by
  unfold workingCopy
  split
  · simp [getLsbD_ones hk, hi]
  · exact (toNat_lt_two_pow_iff_getLsbD x k.toNat).mp hx i hi

/-- The scan of a working copy is below n exactly when every level from n up has the reflection bit. -/
theorem msb_workingCopy_lt_iff {x : Coord} {k : Order} (hk : k.toNat ≤ 32) (hx : x.toNat < 2 ^ k.toNat) (b : Bit)
    (n : Nat) : msb (workingCopy x k b) < (n : Int) ↔ ∀ i, n ≤ i → i < k.toNat → bitAt x i = b := by
  rw [msb_lt_iff_getLsbD]
  constructor
  · exact fun hclear i hi hik => (getLsbD_workingCopy_eq_false_iff x hk b hik).mp (hclear i hi)
  · intro huniform i hi
    rcases Nat.lt_or_ge i k.toNat with hik | hik
    · exact (getLsbD_workingCopy_eq_false_iff x hk b hik).mpr (huniform i hi hik)
    · exact getLsbD_workingCopy_of_ge hk hx b hik

/-- `sp` is the scan of the larger working copy (42_encoder_direct.md R142). -/
theorem encFront_sp_toInt (x y : Coord) (k : Order) (w : EncRegs) :
    (encFront x y k w).sp.toInt =
      msb (maxCoord (workingCopy x k (bitAt x (k.toNat - 1))) (workingCopy y k (bitAt y (k.toNat - 1)))) :=
  toInt_ofInt_msb (by decide) _

theorem neg_one_le_encFront_sp (x y : Coord) (k : Order) (w : EncRegs) : -1 ≤ (encFront x y k w).sp.toInt := by
  rw [encFront_sp_toInt]
  exact neg_one_le_msb _

/-- `sp` is below n exactly when every level from n up is uniform (42_encoder_direct.md R142). -/
theorem encFront_sp_lt_iff {x y : Coord} {k : Order} (hpt : PointOk x y k) (w : EncRegs) (n : Nat) :
    (encFront x y k w).sp.toInt < (n : Int) ↔ ∀ i, n ≤ i → i < k.toNat →
      bitAt x i = (encFront x y k w).bitX ∧ bitAt y i = (encFront x y k w).bitY := by
  obtain ⟨⟨-, hk⟩, hx, hy⟩ := hpt
  rw [encFront_sp_toInt, msb_maxCoord, max_lt_iff, msb_workingCopy_lt_iff hk hx, msb_workingCopy_lt_iff hk hy]
  simp only [imp_and, forall_and]
  rfl

/-- The top level is always uniform, so the start position is below it. -/
theorem encFront_sp_lt {x y : Coord} {k : Order} (hpt : PointOk x y k) (w : EncRegs) :
    (encFront x y k w).sp.toInt < (k.toNat : Int) - 1 := by
  have hk : 1 ≤ k.toNat := hpt.1.1
  have htop := (encFront_sp_lt_iff hpt w (k.toNat - 1)).mpr fun i hi hik => by
    obtain rfl : i = k.toNat - 1 := by omega
    exact ⟨rfl, rfl⟩
  omega

/-- m counts the levels above the start position (42_encoder_direct.md R142). -/
theorem encFront_m_toNat {x y : Coord} {k : Order} (hpt : PointOk x y k) (w : EncRegs) :
    ((encFront x y k w).m.toNat : Int) = (k.toNat : Int) - (encFront x y k w).sp.toInt - 1 := by
  have hlow := neg_one_le_encFront_sp x y k w
  have hhigh := encFront_sp_lt hpt w
  have hk : k.toNat ≤ 32 := hpt.1.2
  have hm : (encFront x y k w).m = BitVec.ofInt 6 ((k.toNat : Int) - (encFront x y k w).sp.toInt - 1) := rfl
  rw [hm, BitVec.toNat_ofInt, Int.emod_eq_of_lt (by omega) (by omega), Int.toNat_of_nonneg (by omega)]

/-- Step 4 computes what the reference encoder's levels do from `sp` down. -/
theorem explicitLevels_acc (x y : Coord) (w : EncRegs) :
    (explicitLevels x y w).acc = (refEncodeFrom x y (w.sp.toInt + 1).toNat (w.acc, w.st)).1 :=
  congrArg Prod.fst (encLevels_acc_st x y (w.sp.toInt + 1).toNat { w with i := w.sp })

/-- Whichever way step 3 finds the partial index and state of the uniform levels, step 4 then ends at the reference index. -/
theorem refEncode_eq_of_seed {x y : Coord} {k : Order} (hpt : PointOk x y k) (w : EncRegs) {seed : Index × AutomatonState}
    (hseed : seed = prtClosed (encFront x y k w).bitX (encFront x y k w).bitY (encFront x y k w).m.toNat) :
    (refEncodeFrom x y ((encFront x y k w).sp.toInt + 1).toNat seed).1 = refEncode x y k.toNat := by
  have hlow := neg_one_le_encFront_sp x y k w
  have hm := encFront_m_toNat hpt w
  have hk : k.toNat ≤ 32 := hpt.1.2
  have hlevels : k.toNat = ((encFront x y k w).sp.toInt + 1).toNat + (encFront x y k w).m.toNat := by omega
  rw [refEncode, hseed, ← refEncodeFrom_uniform x y _ _ _ _ (by omega), ← hlevels]
  exact fun i hi hi' => (encFront_sp_lt_iff hpt w _).mp (by omega) i hi (by omega)

/-- ENCD computes the reference index (42_encoder_direct.md R143). -/
theorem runDirect_acc_eq_refEncode {x y : Coord} {k : Order} (hpt : PointOk x y k) (w : EncRegs) :
    (runDirect x y k w).acc = refEncode x y k.toNat :=
  (explicitLevels_acc x y _).trans (refEncode_eq_of_seed hpt w rfl)

/-- ENCL computes the reference index (43_encoder_lut.md R161). -/
theorem runTable_acc_eq_refEncode {x y : Coord} {k : Order} (hpt : PointOk x y k) (w : EncRegs) :
    (runTable x y k w).acc = refEncode x y k.toNat := by
  have hm := encFront_m_toNat hpt w
  have hlow := neg_one_le_encFront_sp x y k w
  have hhigh := encFront_sp_lt hpt w
  have hk : k.toNat ≤ 32 := hpt.1.2
  refine (explicitLevels_acc x y _).trans (refEncode_eq_of_seed hpt w ?_)
  exact romRead_prt_eq_prtClosed _ _ (encFront x y k w).m (by omega) (by omega)

end Sys2Proof.Machine

/-! The decoder's run length: the scan of a quadrant is below a digit exactly when every digit from there up is the top digit
(44_decoder.md R171, R172, R179). -/

namespace Sys2Proof.Machine

open Sys2Proof.Safety

/-- The word whose highest set bit ends the run of the top digit d (44_decoder.md R179). -/
def scanWord (v : Index) (k : Order) (d : Digit) : Index :=
  match d with
  | 0#2 => v
  | 1#2 => ~~~(pairsLeft v k) &&& indexMask k.toNat
  | 2#2 => ~~~(pairsRight v k) &&& indexMask k.toNat
  | 3#2 => ~~~v &&& indexMask k.toNat

/-- The run length of the top digit d as the formulas give it, before it stands in its register (44_decoder.md R179). -/
def quadrantRun (v : Index) (k : Order) (d : Digit) : Int :=
  if d = 1#2 then (k.toNat : Int) - halfFloor (msb (scanWord v k d) + 1)
  else (k.toNat : Int) - 1 - halfFloor (msb (scanWord v k d))

theorem decFront_run (v : Index) (k : Order) (w : DecRegs) :
    (decFront v k w).run = BitVec.ofInt 6 (quadrantRun v k (digitAt v (k.toNat - 1))) := by
  rw [decFront, seedQuadrant_run]
  have htop : (classify v k w).top = digitAt v (k.toNat - 1) := rfl
  generalize classify v k w = u at htop
  rw [← htop]
  have toInt_msb64 (n : Index) : (BitVec.ofInt 7 (msb64 n)).toInt = msb n := toInt_ofInt_msb (Nat.le_refl 64) n
  rcases digit_cases u.top with h | h | h | h <;> simp [runLength, scanRun, quadrantRun, scanWord, h, toInt_msb64]

theorem halfFloor_eq_ediv (p : Int) : halfFloor p = p / 2 :=
  Int.fdiv_eq_ediv_of_nonneg p (by decide)

/-- The run reaches r digits exactly when the scan stays below digit k − r; in quadrant 1 the digit's low bit may be scanned. -/
theorem le_quadrantRun_iff (v : Index) (k : Order) (d : Digit) {r : Nat} (hr : r ≤ k.toNat) :
    (r : Int) ≤ quadrantRun v k d ↔
      msb (scanWord v k d) < ((2 * (k.toNat - r) + if d = 1#2 then 1 else 0 : Nat) : Int) := by
  unfold quadrantRun
  split <;> rw [halfFloor_eq_ediv] <;> omega

/-! The bits of the scanned words. -/

theorem getLsbD_indexMask {k : Nat} (hk : k ≤ 32) (i : Nat) : (indexMask k).getLsbD i = decide (i < 2 * k) := by
  have hallOnes : (0xFFFF_FFFF_FFFF_FFFF#64) = BitVec.allOnes 64 := by decide
  rw [indexMask, hallOnes, BitVec.getLsbD_ushiftRight, BitVec.getLsbD_allOnes, decide_eq_decide]
  omega

/-- A complement under the mask is clear exactly where the word is set, below bit 2k. -/
theorem getLsbD_not_and_indexMask_eq_false_iff {k : Nat} (hk : k ≤ 32) (n : Index) (i : Nat) :
    (~~~n &&& indexMask k).getLsbD i = false ↔ (i < 2 * k → n.getLsbD i = true) := by
  rw [BitVec.getLsbD_and, BitVec.getLsbD_not, getLsbD_indexMask hk]
  by_cases hi : i < 2 * k
  · have hi64 : i < 64 := by omega
    simp [hi, hi64]
  · simp [hi]

theorem getLsbD_pairsRight {v : Index} {k : Order} (hk : k.toNat ≤ 32) {i : Nat} (hi : i < 2 * k.toNat) :
    (pairsRight v k).getLsbD i = (v.getLsbD i ^^ v.getLsbD (i + 1)) := by
  rw [pairsRight, BitVec.getLsbD_and, getLsbD_indexMask hk, BitVec.getLsbD_xor, BitVec.getLsbD_ushiftRight,
    Nat.add_comm 1 i]
  simp [hi]

theorem getLsbD_pairsLeft_succ {v : Index} {k : Order} (hk : k.toNat ≤ 32) {i : Nat} (hi : i + 1 < 2 * k.toNat) :
    (pairsLeft v k).getLsbD (i + 1) = (v.getLsbD i ^^ v.getLsbD (i + 1)) := by
  have hi64 : i + 1 < 64 := by omega
  rw [pairsLeft, BitVec.getLsbD_and, getLsbD_indexMask hk, BitVec.getLsbD_xor, BitVec.getLsbD_shiftLeft]
  simp [hi, hi64, Bool.xor_comm]

/-- Bits that differ from their upper neighbour alternate from the top one down. -/
theorem alternates_iff (f : Nat → Bool) (a b : Nat) :
    (∀ i, a ≤ i → i < b → (f i ^^ f (i + 1)) = true) ↔
      ∀ i, a ≤ i → i ≤ b → f i = (f b ^^ decide ((b - i) % 2 = 1)) := by
  have hparity (i : Nat) (hi : i < b) : decide ((b - i) % 2 = 1) = !decide ((b - (i + 1)) % 2 = 1) := by
    rw [← decide_not, decide_eq_decide]
    omega
  constructor
  · intro hdiffer i ha hb
    obtain ⟨t, ht⟩ := Nat.exists_eq_add_of_le hb
    induction t generalizing i with
    | zero => simp [ht]
    | succ t ih =>
      have hflip : f i = !f (i + 1) := by simpa [Bool.eq_not] using hdiffer i ha (by omega)
      rw [hflip, ih (i + 1) (by omega) (by omega) (by omega), hparity i (by omega), Bool.xor_not]
  · intro halternate i ha hb
    rw [halternate i ha (by omega), halternate (i + 1) (by omega) (by omega), hparity i hb]
    cases f b <;> cases decide ((b - (i + 1)) % 2 = 1) <;> rfl

/-! The digits of a run, bit by bit. -/

theorem digitAt_eq_iff (v : Index) (j : Nat) (d : Digit) :
    digitAt v j = d ↔ v.getLsbD (2 * j) = d.getLsbD 0 ∧ v.getLsbD (2 * j + 1) = d.getLsbD 1 := by
  have hlow : (digitAt v j).getLsbD 0 = v.getLsbD (2 * j) := by simp [digitAt]
  have hhigh : (digitAt v j).getLsbD 1 = v.getLsbD (2 * j + 1) := by simp [digitAt]
  rw [← hlow, ← hhigh]
  constructor
  · rintro rfl
    exact ⟨rfl, rfl⟩
  · rintro ⟨h0, h1⟩
    refine BitVec.eq_of_getLsbD_eq fun i hi => ?_
    obtain rfl | rfl : i = 0 ∨ i = 1 := by omega
    · exact h0
    · exact h1

/-- The digits from a up are all d exactly when the bits from 2a up follow d's. -/
theorem forall_digitAt_eq_iff (v : Index) (a k : Nat) (d : Digit) :
    (∀ j, a ≤ j → j < k → digitAt v j = d) ↔
      ∀ i, 2 * a ≤ i → i < 2 * k → v.getLsbD i = d.getLsbD (i % 2) := by
  simp only [digitAt_eq_iff]
  constructor
  · intro h i hi hik
    obtain ⟨hlow, hhigh⟩ := h (i / 2) (by omega) (by omega)
    rcases Nat.mod_two_eq_zero_or_one i with hpar | hpar
    · rwa [show 2 * (i / 2) = i by omega, ← hpar] at hlow
    · rwa [show 2 * (i / 2) + 1 = i by omega, ← hpar] at hhigh
  · intro h j hj hjk
    have hlow := h (2 * j) (by omega) (by omega)
    have hhigh := h (2 * j + 1) (by omega) (by omega)
    rw [show (2 * j) % 2 = 0 by omega] at hlow
    rw [show (2 * j + 1) % 2 = 1 by omega] at hhigh
    exact ⟨hlow, hhigh⟩

/-! One quadrant after the other: the scan's word is clear from digit a up exactly when the digits from a up are all d. -/

section quadrants

variable {v : Index} {k : Order} {a : Nat}

theorem msb_scanWord_zero_lt_iff (hv : IndexOk v k) :
    msb (scanWord v k 0#2) < ((2 * a : Nat) : Int) ↔ ∀ j, a ≤ j → j < k.toNat → digitAt v j = 0#2 := by
  rw [msb_lt_iff_getLsbD, forall_digitAt_eq_iff]
  simp only [scanWord, BitVec.getLsbD_zero]
  constructor
  · exact fun hclear i hi _ => hclear i hi
  · intro hclear i hi
    rcases Nat.lt_or_ge i (2 * k.toNat) with hik | hik
    · exact hclear i hi hik
    · exact (toNat_lt_two_pow_iff_getLsbD v _).mp hv.2 i hik

theorem msb_scanWord_three_lt_iff (hk : k.toNat ≤ 32) :
    msb (scanWord v k 3#2) < ((2 * a : Nat) : Int) ↔ ∀ j, a ≤ j → j < k.toNat → digitAt v j = 3#2 := by
  have hthree (i : Nat) : (3#2).getLsbD (i % 2) = true := by
    rcases Nat.mod_two_eq_zero_or_one i with h | h <;> rw [h] <;> rfl
  rw [msb_lt_iff_getLsbD, forall_digitAt_eq_iff]
  simp only [scanWord, getLsbD_not_and_indexMask_eq_false_iff hk, hthree]

/-- In quadrant 2 the bits of a run alternate down from bit 2k, which is clear. -/
theorem msb_scanWord_two_lt_iff (hv : IndexOk v k) :
    msb (scanWord v k 2#2) < ((2 * a : Nat) : Int) ↔ ∀ j, a ≤ j → j < k.toNat → digitAt v j = 2#2 := by
  have hk : k.toNat ≤ 32 := hv.1.2
  have htwo (i : Nat) : (2#2).getLsbD (i % 2) = decide (i % 2 = 1) := by
    rcases Nat.mod_two_eq_zero_or_one i with h | h <;> rw [h] <;> rfl
  have hclear : v.getLsbD (2 * k.toNat) = false := (toNat_lt_two_pow_iff_getLsbD v _).mp hv.2 _ (Nat.le_refl _)
  have hparity (i : Nat) (hi : i ≤ 2 * k.toNat) : decide ((2 * k.toNat - i) % 2 = 1) = decide (i % 2 = 1) := by
    rw [decide_eq_decide]
    omega
  rw [msb_lt_iff_getLsbD, forall_digitAt_eq_iff]
  simp only [scanWord, getLsbD_not_and_indexMask_eq_false_iff hk, htwo]
  calc (∀ i, 2 * a ≤ i → i < 2 * k.toNat → (pairsRight v k).getLsbD i = true)
      ↔ ∀ i, 2 * a ≤ i → i < 2 * k.toNat → (v.getLsbD i ^^ v.getLsbD (i + 1)) = true :=
        forall₃_congr fun i _ hi => by rw [getLsbD_pairsRight hk hi]
    _ ↔ ∀ i, 2 * a ≤ i → i ≤ 2 * k.toNat → v.getLsbD i = decide (i % 2 = 1) :=
        (alternates_iff v.getLsbD _ _).trans <| forall₃_congr fun i _ hi => by
          rw [hclear, Bool.false_xor, hparity i hi]
    _ ↔ ∀ i, 2 * a ≤ i → i < 2 * k.toNat → v.getLsbD i = decide (i % 2 = 1) := by
        refine forall₂_congr fun i _ => ⟨fun h hi => h hi.le, fun h hi => ?_⟩
        rcases hi.lt_or_eq with hi | rfl
        · exact h hi
        · simp [hclear]

/-- In quadrant 1 the bits of a run alternate down from bit 2k − 1, which is clear. -/
theorem msb_scanWord_one_lt_iff (hk : k.toNat ≤ 32) (htop : digitAt v (k.toNat - 1) = 1#2) (ha : a < k.toNat) :
    msb (scanWord v k 1#2) < ((2 * a + 1 : Nat) : Int) ↔ ∀ j, a ≤ j → j < k.toNat → digitAt v j = 1#2 := by
  have hone (i : Nat) : (1#2).getLsbD (i % 2) = decide (i % 2 = 0) := by
    rcases Nat.mod_two_eq_zero_or_one i with h | h <;> rw [h] <;> rfl
  have hclear : v.getLsbD (2 * k.toNat - 1) = false := by
    have := ((digitAt_eq_iff _ _ _).mp htop).2
    rwa [show 2 * (k.toNat - 1) + 1 = 2 * k.toNat - 1 by omega] at this
  have hparity (i : Nat) (hi : i < 2 * k.toNat) : decide ((2 * k.toNat - 1 - i) % 2 = 1) = decide (i % 2 = 0) := by
    rw [decide_eq_decide]
    omega
  rw [msb_lt_iff_getLsbD, forall_digitAt_eq_iff]
  simp only [scanWord, getLsbD_not_and_indexMask_eq_false_iff hk, hone]
  calc (∀ i, 2 * a + 1 ≤ i → i < 2 * k.toNat → (pairsLeft v k).getLsbD i = true)
      ↔ ∀ i, 2 * a ≤ i → i < 2 * k.toNat - 1 → (v.getLsbD i ^^ v.getLsbD (i + 1)) = true := by
        constructor
        · intro h i hi hik
          rw [← getLsbD_pairsLeft_succ hk (by omega)]
          exact h (i + 1) (by omega) (by omega)
        · intro h i hi hik
          obtain ⟨i, rfl⟩ := Nat.exists_eq_add_of_lt (Nat.zero_lt_of_lt hi)
          rw [Nat.zero_add, getLsbD_pairsLeft_succ hk (by omega)]
          exact h i (by omega) (by omega)
    _ ↔ ∀ i, 2 * a ≤ i → i ≤ 2 * k.toNat - 1 → v.getLsbD i = decide (i % 2 = 0) :=
        (alternates_iff v.getLsbD _ _).trans <| forall₃_congr fun i _ hi => by
          rw [hclear, Bool.false_xor, hparity i (by omega)]
    _ ↔ ∀ i, 2 * a ≤ i → i < 2 * k.toNat → v.getLsbD i = decide (i % 2 = 0) :=
        forall₂_congr fun i _ => by rw [Nat.le_sub_one_iff_lt (by omega)]

end quadrants

/-- The run reaches r digits exactly when the leading r digits all equal the top digit (44_decoder.md R172). -/
theorem le_quadrantRun_iff_leadingRun {v : Index} {k : Order} (hv : IndexOk v k) {r : Nat} (hr : 1 ≤ r) (hrk : r ≤ k.toNat) :
    (r : Int) ≤ quadrantRun v k (digitAt v (k.toNat - 1)) ↔ leadingRun v k.toNat r := by
  have hk : k.toNat ≤ 32 := hv.1.2
  have hlead : leadingRun v k.toNat r ↔
      ∀ j, k.toNat - r ≤ j → j < k.toNat → digitAt v j = digitAt v (k.toNat - 1) :=
    forall₂_congr fun j _ => by rw [Nat.le_sub_one_iff_lt (by omega)]
  rw [hlead, le_quadrantRun_iff v k _ hrk]
  rcases digit_cases (digitAt v (k.toNat - 1)) with htop | htop | htop | htop <;> rw [htop]
  · exact msb_scanWord_zero_lt_iff hv
  · exact msb_scanWord_one_lt_iff hk htop (by omega)
  · exact msb_scanWord_two_lt_iff hv
  · exact msb_scanWord_three_lt_iff hk

theorem leadingRun_one (v : Index) (k : Nat) : leadingRun v k 1 := by
  intro j hj hj'
  rw [Nat.le_antisymm hj' hj]

theorem quadrantRun_le (v : Index) (k : Order) (d : Digit) : quadrantRun v k d ≤ (k.toNat : Int) := by
  have hlow := neg_one_le_msb (scanWord v k d)
  unfold quadrantRun
  split <;> rw [halfFloor_eq_ediv] <;> omega

/-- The run register holds the run as the formulas give it, which is in 1..k. -/
theorem decFront_run_toNat {v : Index} {k : Order} (hv : IndexOk v k) (w : DecRegs) :
    ((decFront v k w).run.toNat : Int) = quadrantRun v k (digitAt v (k.toNat - 1)) ∧
      1 ≤ (decFront v k w).run.toNat ∧ (decFront v k w).run.toNat ≤ k.toNat := by
  obtain ⟨hk1, hk32⟩ := hv.1
  have hhigh := quadrantRun_le v k (digitAt v (k.toNat - 1))
  have hlow := (le_quadrantRun_iff_leadingRun hv (Nat.le_refl 1) hk1).mpr (leadingRun_one v k.toNat)
  have hrun : ((decFront v k w).run.toNat : Int) = quadrantRun v k (digitAt v (k.toNat - 1)) := by
    rw [decFront_run, BitVec.toNat_ofInt, Int.emod_eq_of_lt (by omega) (by omega), Int.toNat_of_nonneg (by omega)]
  omega

theorem le_decFront_run_iff_leadingRun {v : Index} {k : Order} (hv : IndexOk v k) (w : DecRegs) {r : Nat} (hr : 1 ≤ r)
    (hrk : r ≤ k.toNat) : r ≤ (decFront v k w).run.toNat ↔ leadingRun v k.toNat r := by
  rw [← le_quadrantRun_iff_leadingRun hv hr hrk, ← (decFront_run_toNat hv w).1, Int.ofNat_le]

end Sys2Proof.Machine

/-! The decode table under one repeated digit: from S0 it writes one quadrant for ever, so a run gives the seeds
(44_decoder.md R173 to R175). -/

namespace Sys2Proof.Machine

open Sys2Proof.Safety

/-- The low r bits all equal to b. -/
def repeatBit (b : Bit) (r : Nat) : Coord := if b = 1#1 then ones r else 0

/-- The cell and state that r digits d lead to from S0. -/
def uniformCell (d : Digit) (r : Nat) : Coord × Coord × AutomatonState :=
  (repeatBit (quadrant d).1 r, repeatBit (quadrant d).2 r, quadrantState d r)

/-- The seeds of step 1 are the cell and state of the run (44_decoder.md R173). -/
theorem seedQuadrant_eq_uniformCell (w : DecRegs) :
    ((seedQuadrant w).x, (seedQuadrant w).y, (seedQuadrant w).st) = uniformCell w.top w.run.toNat := by
  rcases digit_cases w.top with h | h | h | h <;> simp only [seedQuadrant, h] <;> rfl

theorem repeatBit_succ : ∀ b : Bit, ∀ r < 32, repeatBit b (r + 1) = (repeatBit b r <<< 1) ||| b.setWidth 32 := by
  decide

theorem quadrantState_add_two (d : Digit) (r : Nat) : quadrantState d (r + 2) = quadrantState d r := by
  simp only [quadrantState, Nat.add_mod_right]

/-- One more digit d, in the state that r of them lead to, writes its quadrant's bits and flips the parity. -/
theorem decTT_quadrantState (d : Digit) (r : Nat) :
    decBitX (romRead decTT (decIndex (quadrantState d r) d)) = (quadrant d).1 ∧
      decBitY (romRead decTT (decIndex (quadrantState d r) d)) = (quadrant d).2 ∧
      decNext (romRead decTT (decIndex (quadrantState d r) d)) = quadrantState d (r + 1) := by
  induction r using Nat.twoStepInduction with
  | zero => revert d; decide
  | one => revert d; decide
  | more r ih _ => rwa [quadrantState_add_two, quadrantState_add_two]

/-- The reference decoder at a digit that continues a run. -/
theorem refDecodeFrom_succ_uniformCell {v : Index} {d : Digit} {n r : Nat} (hr : r < 32) (hd : digitAt v n = d) :
    refDecodeFrom v (n + 1) (uniformCell d r) = refDecodeFrom v n (uniformCell d (r + 1)) := by
  obtain ⟨hx, hy, hnext⟩ := decTT_quadrantState d r
  simp only [refDecodeFrom, uniformCell, hd, hx, hy, hnext, repeatBit_succ _ r hr]

theorem uniformCell_zero : ∀ d : Digit, uniformCell d 0 = (0, 0, S0) := by decide

/-- The reference decoder skips a run of r digits at the top by the seeds. -/
theorem refDecodeFrom_uniform (v : Index) (d : Digit) (n r : Nat) (hr : r ≤ 32)
    (hrun : ∀ j, n ≤ j → j < n + r → digitAt v j = d) :
    refDecodeFrom v (n + r) (0, 0, S0) = refDecodeFrom v n (uniformCell d r) := by
  induction r generalizing n with
  | zero => rw [uniformCell_zero, Nat.add_zero]
  | succ r ih =>
    calc refDecodeFrom v (n + (r + 1)) (0, 0, S0)
        = refDecodeFrom v (n + 1 + r) (0, 0, S0) := by rw [Nat.add_right_comm n 1 r, Nat.add_assoc]
      _ = refDecodeFrom v (n + 1) (uniformCell d r) :=
        ih (n + 1) (by omega) fun j hj hj' => hrun j (by omega) (by omega)
      _ = refDecodeFrom v n (uniformCell d (r + 1)) :=
        refDecodeFrom_succ_uniformCell (by omega) (hrun n (Nat.le_refl n) (by omega))

theorem decFront_top (v : Index) (k : Order) (w : DecRegs) : (decFront v k w).top = digitAt v (k.toNat - 1) := by
  rw [decFront, seedQuadrant_top, runLength_top, scanRun_top, classify_top]

/-- Step 1 leaves the cell and state of the run it found. -/
theorem decFront_eq_uniformCell (v : Index) (k : Order) (w : DecRegs) :
    ((decFront v k w).x, (decFront v k w).y, (decFront v k w).st) =
      uniformCell (digitAt v (k.toNat - 1)) (decFront v k w).run.toNat := by
  have hseed := seedQuadrant_eq_uniformCell (runLength k (scanRun v k (classify v k w)))
  rwa [← seedQuadrant_run, ← seedQuadrant_top, ← decFront, decFront_top] at hseed

/-- DEC computes the reference cell (44_decoder.md R170). -/
theorem runDecode_eq_refDecode {v : Index} {k : Order} (hv : IndexOk v k) (w : DecRegs) :
    ((runDecode v k w).x, (runDecode v k w).y) = refDecode v k.toNat := by
  obtain ⟨-, hrun1, hrunk⟩ := decFront_run_toNat hv w
  have hk : k.toNat ≤ 32 := hv.1.2
  have hlead := (le_decFront_run_iff_leadingRun hv w hrun1 hrunk).mp (Nat.le_refl _)
  have hskip := refDecodeFrom_uniform v (digitAt v (k.toNat - 1)) (k.toNat - (decFront v k w).run.toNat)
    (decFront v k w).run.toNat (by omega) fun j hj hj' => hlead j hj (by omega)
  rw [Nat.sub_add_cancel hrunk, ← decFront_eq_uniformCell v k w, ← runDecode_eq_refDecodeFrom] at hskip
  rw [refDecode, hskip]

/-! Every operation. -/

/-- The answer of an operation is the reference answer, on every operand: the scans by floor(log2 n), and the encoders and the
decoder by the first failing check, or else by the reference automaton. -/
theorem execAnswer_eq_refAnswer (w : EncRegs) (u : DecRegs) (i : Instr) : execAnswer w u i = refAnswer i := by
  cases i with
  | msb32 x => exact congrArg Answer.value (sext64_msb_eq_refScan x)
  | msb64 v => exact congrArg Answer.value (sext64_msb_eq_refScan v)
  | encd x y k => exact elim_checkEncode_eq_refAnswer fun hpt => runDirect_acc_eq_refEncode hpt w
  | encl x y k => exact elim_checkEncode_eq_refAnswer fun hpt => runTable_acc_eq_refEncode hpt w
  | dec v k => exact elim_checkDecode_eq_refAnswer fun hv => runDecode_eq_refDecode hv u
  | reserved5 => rfl
  | reserved6 => rfl
  | reserved7 => rfl

/-- Every operation, on every operand and from every state, completes with the reference answer. -/
theorem exec_completesWith_refAnswer (i : Instr) (s : State) :
    ∃ t, exec i s = .next t ∧ completesWith t (refAnswer i) := by
  rw [← execAnswer_eq_refAnswer s.enc s.dec i]
  exact ⟨_, exec_eq_completed_execAnswer i s, completed_completesWith _ s⟩

/-- Settles O19: an operation completes with its answer, and that is the reference answer. -/
theorem everyOperationGivesReferenceAnswer : Obligations.EveryOperationGivesReferenceAnswer := by
  unfold Obligations.EveryOperationGivesReferenceAnswer
  exact exec_completesWith_refAnswer

end Sys2Proof.Machine

/-! The two basic tables: their entries from the orientation rules, and that they are inverse (41_tables.md R113 to R115). -/

namespace Sys2Proof.Machine

/-- The digit that the encode table emits is the one whose quadrant the state maps to the bits read (41_tables.md R113). -/
theorem encTT_orient : ∀ (s : AutomatonState) (bx bY : Bit),
    orient s (quadrant (encDigit (romRead encTT (encIndex s bx bY)))).1
      (quadrant (encDigit (romRead encTT (encIndex s bx bY)))).2 = (bx, bY) ∧
    encNext (romRead encTT (encIndex s bx bY)) = nextState s (encDigit (romRead encTT (encIndex s bx bY))) := by
  decide

/-- The bits that the decode table writes are the state's image of the digit's quadrant (41_tables.md R114). -/
theorem decTT_orient : ∀ (s : AutomatonState) (d : Digit),
    (decBitX (romRead decTT (decIndex s d)), decBitY (romRead decTT (decIndex s d))) =
      orient s (quadrant d).1 (quadrant d).2 ∧
    decNext (romRead decTT (decIndex s d)) = nextState s d := by
  decide

/-- Settles O24: the array is the printed one, and its sixteen entries follow the orientation rules. -/
theorem encTableFromOrientations : Obligations.EncTableFromOrientations := by
  unfold Obligations.EncTableFromOrientations
  exact ⟨rfl, encTT_orient⟩

/-- Settles O25: the array is the printed one, and its sixteen entries follow the orientation rules. -/
theorem decTableFromOrientations : Obligations.DecTableFromOrientations := by
  unfold Obligations.DecTableFromOrientations
  exact ⟨rfl, decTT_orient⟩

/-- Decoding the digit that the encode table emits gives back the bits, and leads to the same state. -/
theorem decTT_encDigit : ∀ (s : AutomatonState) (bx bY : Bit),
    decBitX (romRead decTT (decIndex s (encDigit (romRead encTT (encIndex s bx bY))))) = bx ∧
    decBitY (romRead decTT (decIndex s (encDigit (romRead encTT (encIndex s bx bY))))) = bY ∧
    decNext (romRead decTT (decIndex s (encDigit (romRead encTT (encIndex s bx bY))))) =
      encNext (romRead encTT (encIndex s bx bY)) := by
  decide

/-- Encoding the bits that the decode table writes gives back the digit, and leads to the same state. -/
theorem encTT_decBits : ∀ (s : AutomatonState) (d : Digit),
    encDigit (romRead encTT (encIndex s (decBitX (romRead decTT (decIndex s d))) (decBitY (romRead decTT (decIndex s d))))) = d ∧
    encNext (romRead encTT (encIndex s (decBitX (romRead decTT (decIndex s d))) (decBitY (romRead decTT (decIndex s d))))) =
      decNext (romRead decTT (decIndex s d)) := by
  decide

/-- Settles O26: each table undoes the other, and the decode table is the inverse map of each state. -/
theorem tablesAreInverse : Obligations.TablesAreInverse := by
  unfold Obligations.TablesAreInverse
  refine ⟨fun s n bx bY d => ⟨?_, ?_⟩, fun s => Function.bijective_iff_has_inverse.mpr
    ⟨fun d => (decBitX (romRead decTT (decIndex s d)), decBitY (romRead decTT (decIndex s d))), fun c => ?_, fun d => ?_⟩⟩
  · rintro ⟨rfl, rfl⟩
    exact decTT_encDigit s bx bY
  · rintro ⟨rfl, rfl, rfl⟩
    exact encTT_decBits s d
  · obtain ⟨hx, hy, -⟩ := decTT_encDigit s c.1 c.2
    exact Prod.ext hx hy
  · exact (encTT_decBits s d).1

end Sys2Proof.Machine

/-! Equal levels from S0, the base-4 repunits, and the PRT as an iterated table (41_tables.md R116 to R119). -/

namespace Sys2Proof.Machine

/-- n more equal levels, after m of them, emit whatever they emit and flip the parity n times. -/
theorem prtIterFrom_state (bx bY : Bit) (n m : Nat) (a : Index) :
    (prtIterFrom bx bY n (a, runState (topDigit bx bY) m)).2 = runState (topDigit bx bY) (m + n) := by
  induction n generalizing m a with
  | zero => rfl
  | succ n ih =>
    obtain ⟨-, hnext⟩ := encTT_runState bx bY m
    simp only [prtIterFrom, hnext, ih]
    rw [Nat.add_assoc, Nat.add_comm 1 n]

theorem runState_zero (d : Digit) : runState d 0 = S0 := by simp [runState]

/-- The half turn is entered only from the two transposes, and kept by the two digits that turn nothing. -/
theorem nextState_eq_S3_iff : ∀ (s : AutomatonState) (d : Digit), nextState s d = S3 ↔
    (s = S1 ∧ d = 3) ∨ (s = S2 ∧ d = 0) ∨ (s = S3 ∧ (d = 1 ∨ d = 2)) := by
  decide

/-- Settles O27, by induction on the number of levels. -/
theorem uniformLevelsFromS0 : Obligations.UniformLevelsFromS0 := by
  unfold Obligations.UniformLevelsFromS0
  refine ⟨fun bx bY n => ?_, nextState_eq_S3_iff⟩
  have hstate : (prtIterFrom bx bY n (0, S0)).2 = runState (topDigit bx bY) n := by
    have h := prtIterFrom_state bx bY n 0 0
    rwa [runState_zero, Nat.zero_add] at h
  exact ⟨hstate, hstate ▸ (encTT_runState bx bY n).1⟩

/-- Shifting in a field from the right is multiplying and adding while no set bit is lost. -/
theorem toNat_shiftLeft_or_setWidth {w i : Nat} {a : BitVec w} (h : (a.toNat + 1) * 2 ^ i ≤ 2 ^ w) (b : BitVec i) :
    ((a <<< i) ||| b.setWidth w).toNat = a.toNat * 2 ^ i + b.toNat := by
  have hb : b.toNat < 2 ^ i := b.isLt
  rw [Nat.add_one_mul] at h
  rw [BitVec.toNat_or, BitVec.toNat_shiftLeft, BitVec.toNat_setWidth, Nat.mod_eq_of_lt (a := b.toNat) (by omega),
    Nat.shiftLeft_eq, Nat.mod_eq_of_lt (by omega), ← Nat.shiftLeft_eq, Nat.shiftLeft_add_eq_or_of_lt hb]

theorem repunit_zero : repunit 0 = 0 := by decide

/-- A scaled repunit takes one more digit d (41_tables.md R117). -/
theorem scale_repunit_succ (d : Digit) {m : Nat} (hm : m < 32) :
    scale d (repunit (m + 1)) = (scale d (repunit m) <<< 2) ||| d.setWidth 64 := by
  rw [repunit_succ m hm, scale_shiftLeft_or_one]

/-- d times A(m) is d(4^m − 1)/3, which fits, for every digit and every order. -/
theorem three_mul_scale_repunit (d : Digit) {m : Nat} (hm : m ≤ 32) :
    3 * (scale d (repunit m)).toNat + d.toNat = d.toNat * 4 ^ m := by
  induction m with
  | zero => rcases digit_cases d with rfl | rfl | rfl | rfl <;> decide
  | succ m ih =>
    have ih := ih (by omega)
    have hd : d.toNat ≤ 3 := Nat.le_of_lt_succ d.isLt
    have hpow : 4 ^ m ≤ 4 ^ 31 := Nat.pow_le_pow_right (by decide) (by omega)
    have hle : d.toNat * 4 ^ m ≤ d.toNat * 4 ^ 31 := Nat.mul_le_mul_left _ hpow
    rw [scale_repunit_succ d (by omega), toNat_shiftLeft_or_setWidth (by omega), Nat.pow_succ 4 m, ← Nat.mul_assoc]
    omega

/-- Settles O28: the values by induction on m, one more digit at a time. -/
theorem repunitValues : Obligations.RepunitValues := by
  unfold Obligations.RepunitValues
  refine ⟨repunit_zero, by decide, fun m h1 hm => ?_⟩
  have hrepunit : 3 * (repunit m).toNat + 1 = 1 * 4 ^ m := three_mul_scale_repunit 1#2 hm
  refine ⟨by omega, ?_, fun d => ?_⟩
  · have hsucc := repunit_succ (m - 1) (by omega)
    rwa [Nat.sub_add_cancel h1] at hsucc
  · have hscale := three_mul_scale_repunit d hm
    rw [← Nat.one_mul (4 ^ m), ← hrepunit, Nat.mul_add, Nat.mul_left_comm] at hscale
    omega

/-- n more equal levels take the closed form of m levels to that of m + n (41_tables.md R119). -/
theorem prtIterFrom_prtClosed (bx bY : Bit) (n m : Nat) (h : m + n ≤ 32) :
    prtIterFrom bx bY n (prtClosed bx bY m) = prtClosed bx bY (m + n) := by
  induction n generalizing m with
  | zero => rfl
  | succ n ih =>
    calc prtIterFrom bx bY (n + 1) (prtClosed bx bY m)
        = prtIterFrom bx bY n (prtIterFrom bx bY 1 (prtClosed bx bY m)) := rfl
      _ = prtIterFrom bx bY n (prtClosed bx bY (m + 1)) := by rw [prtIterFrom_one_prtClosed bx bY (by omega)]
      _ = prtClosed bx bY (m + (n + 1)) := by rw [ih (m + 1) (by omega), Nat.add_right_comm, Nat.add_assoc]

theorem prtIter_eq_prtClosed (bx bY : Bit) {m : Nat} (hm : m ≤ 32) : prtIter bx bY m = prtClosed bx bY m := by
  rw [prtIter, ← prtClosed_zero bx bY, prtIterFrom_prtClosed bx bY m 0 (by omega), Nat.zero_add]

/-- Settles O29: the printed entries are the closed form, and so is the iteration. -/
theorem prtIsIterationAndClosedForm : Obligations.PrtIsIterationAndClosedForm := by
  unfold Obligations.PrtIsIterationAndClosedForm
  intro bx bY m h1 hm
  have hto : (BitVec.ofNat 6 m).toNat = m := by rw [BitVec.toNat_ofNat, Nat.mod_eq_of_lt (by omega)]
  have hprinted := romRead_prt_eq_prtClosed bx bY (BitVec.ofNat 6 m) (by omega) (by omega)
  have hclosed := prtIter_eq_prtClosed bx bY hm
  exact ⟨by rw [hprinted, hto, hclosed], hclosed⟩

end Sys2Proof.Machine

/-! Consecutive indices: the digits below the one that a carry reaches are all 3 before it and all 0 after it, and the last corner
of one quadrant lies beside the first corner of the next (41_tables.md R125). -/

namespace Sys2Proof.Machine

open Sys2Proof.Safety

/-! The reference decoder, one digit at a time. -/

/-- What one digit makes of the cell and state reached so far: the bits of its quadrant are shifted in. -/
def descend (c : Coord × Coord × AutomatonState) (d : Digit) : Coord × Coord × AutomatonState :=
  ((c.1 <<< 1) ||| (orient c.2.2 (quadrant d).1 (quadrant d).2).1.setWidth 32,
    (c.2.1 <<< 1) ||| (orient c.2.2 (quadrant d).1 (quadrant d).2).2.setWidth 32,
    nextState c.2.2 d)

theorem refDecodeFrom_succ (v : Index) (n : Nat) (c : Coord × Coord × AutomatonState) :
    refDecodeFrom v (n + 1) c = refDecodeFrom v n (descend c (digitAt v n)) := by
  obtain ⟨hbits, hnext⟩ := decTT_orient c.2.2 (digitAt v n)
  simp only [refDecodeFrom, descend, ← hbits, hnext]

/-- The cell that the reference decoder has reached, as numbers. -/
def cellOf (c : Coord × Coord × AutomatonState) : Nat × Nat := (c.1.toNat, c.2.1.toNat)

/-- The corner of a square that digit d stands for in state s, as numbers. -/
def cornerOf (s : AutomatonState) (d : Digit) : Nat × Nat :=
  ((orient s (quadrant d).1 (quadrant d).2).1.toNat, (orient s (quadrant d).1 (quadrant d).2).2.toNat)

/-- Both coordinates take n more bits and lose none. -/
def roomFor (n : Nat) (c : Coord × Coord × AutomatonState) : Prop :=
  ((cellOf c).1 + 1) * 2 ^ n ≤ 2 ^ 32 ∧ ((cellOf c).2 + 1) * 2 ^ n ≤ 2 ^ 32

theorem cellOf_descend {n : Nat} {c : Coord × Coord × AutomatonState} (h : roomFor (n + 1) c) (d : Digit) :
    cellOf (descend c d) = 2 • cellOf c + cornerOf c.2.2 d := by
  have hbit : ∀ (a : Coord) (b : Bit), (a.toNat + 1) * 2 ^ (n + 1) ≤ 2 ^ 32 →
      ((a <<< 1) ||| b.setWidth 32).toNat = 2 * a.toNat + b.toNat := fun a b ha => by
    have hpow : 2 ^ 1 ≤ 2 ^ (n + 1) := Nat.pow_le_pow_right Nat.two_pos (Nat.le_add_left 1 n)
    rw [toNat_shiftLeft_or_setWidth ((Nat.mul_le_mul_left _ hpow).trans ha), Nat.pow_one, Nat.mul_comm]
  exact Prod.ext (hbit _ _ h.1) (hbit _ _ h.2)

theorem roomFor_descend {n : Nat} {c : Coord × Coord × AutomatonState} (h : roomFor (n + 1) c) (d : Digit) :
    roomFor n (descend c d) := by
  have hfit : ∀ (a : Nat) (b : Bit), (a + 1) * 2 ^ (n + 1) ≤ 2 ^ 32 → (2 * a + b.toNat + 1) * 2 ^ n ≤ 2 ^ 32 := by
    intro a b hroom
    have hb : b.toNat < 2 := b.isLt
    rw [Nat.pow_succ', ← Nat.mul_assoc] at hroom
    exact (Nat.mul_le_mul_right _ (by omega)).trans hroom
  rw [roomFor, cellOf_descend h d]
  exact ⟨hfit _ _ h.1, hfit _ _ h.2⟩

/-- The corner that a digit stands for is the same corner of the smaller square it leads to. -/
theorem cornerOf_nextState : ∀ (s : AutomatonState) (d : Digit), cornerOf (nextState s d) d = cornerOf s d := by
  decide

/-- One digit d repeated to the end leads from any state to the corner of the square that d stands for. -/
theorem refDecodeFrom_corner {v : Index} {d : Digit} {n : Nat} (hdigits : ∀ j < n, digitAt v j = d)
    {c : Coord × Coord × AutomatonState} (hroom : roomFor n c) :
    cellOf (refDecodeFrom v n c) + cornerOf c.2.2 d = 2 ^ n • (cellOf c + cornerOf c.2.2 d) := by
  induction n generalizing c with
  | zero => rw [Nat.pow_zero, one_smul, refDecodeFrom]
  | succ n ih =>
    have hstate : cornerOf (descend c d).2.2 d = cornerOf c.2.2 d := cornerOf_nextState c.2.2 d
    have hcorner := ih (fun j hj => hdigits j (by omega)) (roomFor_descend hroom d)
    rw [hstate, cellOf_descend hroom d] at hcorner
    rw [refDecodeFrom_succ, hdigits n (by omega), hcorner, Nat.pow_succ]
    module

/-! Neighbouring cells. -/

/-- The two cells differ by exactly 1 in exactly one coordinate (41_tables.md R125). -/
abbrev neighbours (a b : Nat × Nat) : Prop :=
  (a.1 = b.1 ∧ (a.2 + 1 = b.2 ∨ b.2 + 1 = a.2)) ∨ (a.2 = b.2 ∧ (a.1 + 1 = b.1 ∨ b.1 + 1 = a.1))

/-- Two cells are neighbours when adding one each of two neighbours makes them equal. -/
theorem neighbours_of_add_eq {a b e f : Nat × Nat} (h : a + e = b + f) (hef : neighbours e f) : neighbours a b := by
  obtain ⟨hx, hy⟩ := Prod.ext_iff.mp h
  simp only [Prod.fst_add, Prod.snd_add] at hx hy
  unfold neighbours at *
  omega

/-- From one quadrant to the next: the last corner of the one and the first corner of the other are neighbours, and they lie on the
two sides of the line between the quadrants. -/
theorem corners_meet : ∀ (s : AutomatonState) (d : Digit), d ≠ 3 →
    cornerOf s d + cornerOf (nextState s d) 3 = cornerOf s (d + 1) + cornerOf (nextState s (d + 1)) 0 ∧
    neighbours (cornerOf (nextState s d) 3) (cornerOf (nextState s (d + 1)) 0) := by
  decide

/-! The digits of two consecutive indices. -/

/-- The increment of v to w carries up to digit n: below it 3 turns into 0, and digit n grows by one. -/
structure CarriesTo (n : Nat) (v w : Index) : Prop where
  low_three : ∀ j < n, digitAt v j = 3
  low_zero : ∀ j < n, digitAt w j = 0
  ne_three : digitAt v n ≠ 3
  grows : digitAt w n = digitAt v n + 1
  high_same : ∀ j, n < j → digitAt w j = digitAt v j

theorem toNat_digitAt (v : Index) (j : Nat) : (digitAt v j).toNat = v.toNat / 4 ^ j % 4 := by
  rw [digitAt, BitVec.extractLsb'_toNat, Nat.shiftRight_eq_div_pow, Nat.pow_mul]

theorem digitAt_eq_ofNat_iff {v : Index} {j a : Nat} : digitAt v j = BitVec.ofNat 2 a ↔ v.toNat / 4 ^ j % 4 = a % 4 := by
  rw [← BitVec.toNat_inj, toNat_digitAt, BitVec.toNat_ofNat]

theorem digitAt_eq_of_div_eq {v w : Index} {j : Nat} (h : w.toNat / 4 ^ j = v.toNat / 4 ^ j) : digitAt w j = digitAt v j :=
  BitVec.eq_of_toNat_eq (by rw [toNat_digitAt, toNat_digitAt, h])

section increment

variable {v w : Index} (hvw : w.toNat = v.toNat + 1)
include hvw

/-- The carry is still there after digits 3 only. -/
theorem div_increment_of_threes {n : Nat} (hthree : ∀ j < n, digitAt v j = 3) :
    w.toNat / 4 ^ n = v.toNat / 4 ^ n + 1 := by
  induction n with
  | zero => simpa using hvw
  | succ n ih =>
    have hcarry := ih fun j hj => hthree j (by omega)
    have hdigit := (digitAt_eq_ofNat_iff (a := 3)).mp (hthree n (by omega))
    rw [Nat.pow_succ, ← Nat.div_div_eq_div_mul, ← Nat.div_div_eq_div_mul]
    omega

/-- The carry ends at a digit other than 3. -/
theorem div_increment_of_ne_three {n : Nat} (hthree : ∀ j < n, digitAt v j = 3) (hne : digitAt v n ≠ 3) {j : Nat} (hj : n < j) :
    w.toNat / 4 ^ j = v.toNat / 4 ^ j := by
  induction j, hj using Nat.le_induction with
  | base =>
    have hcarry := div_increment_of_threes hvw hthree
    have hdigit := (digitAt_eq_ofNat_iff (a := 3)).not.mp hne
    rw [Nat.succ_eq_add_one, Nat.pow_succ, ← Nat.div_div_eq_div_mul, ← Nat.div_div_eq_div_mul]
    omega
  | succ j _ ih => rw [Nat.pow_succ, ← Nat.div_div_eq_div_mul, ← Nat.div_div_eq_div_mul, ih]

/-- The lowest digit other than 3 is where the carry ends. -/
theorem carriesTo_of_threes {n : Nat} (hthree : ∀ j < n, digitAt v j = 3) (hne : digitAt v n ≠ 3) : CarriesTo n v w where
  low_three := hthree
  low_zero j hj := by
    have hcarry := div_increment_of_threes hvw fun i hi => hthree i (hi.trans hj)
    have hdigit := (digitAt_eq_ofNat_iff (a := 3)).mp (hthree j hj)
    exact (digitAt_eq_ofNat_iff (a := 0)).mpr (by omega)
  ne_three := hne
  grows := by
    have hcarry := div_increment_of_threes hvw hthree
    refine BitVec.eq_of_toNat_eq ?_
    rw [BitVec.toNat_add, toNat_digitAt, toNat_digitAt, hcarry]
    exact Nat.add_mod _ 1 4
  high_same j hj := digitAt_eq_of_div_eq (div_increment_of_ne_three hvw hthree hne hj)

/-- An index with a successor of k digits has a digit other than 3 among its k digits. -/
theorem exists_carriesTo {k : Nat} (hk : w.toNat < 4 ^ k) : ∃ n < k, CarriesTo n v w := by
  have hex : ∃ n, n < k ∧ digitAt v n ≠ 3 := by
    by_contra hnone
    push Not at hnone
    have hcarry := div_increment_of_threes hvw hnone
    rw [Nat.div_eq_of_lt hk] at hcarry
    exact absurd hcarry (Nat.zero_ne_add_one _)
  obtain ⟨hlt, hne⟩ := Nat.find_spec hex
  refine ⟨Nat.find hex, hlt, carriesTo_of_threes hvw (fun j hj => ?_) hne⟩
  have hmin := Nat.find_min hex hj
  push Not at hmin
  exact hmin (hj.trans hlt)

end increment

/-! The cells of two consecutive indices. -/

/-- At the digit that the carry reaches the two cells part, into neighbouring corners of neighbouring quadrants. -/
theorem neighbours_at_carry {v w : Index} {n : Nat} (h : CarriesTo n v w) {c : Coord × Coord × AutomatonState}
    (hroom : roomFor (n + 1) c) :
    neighbours (cellOf (refDecodeFrom v (n + 1) c)) (cellOf (refDecodeFrom w (n + 1) c)) := by
  have hroomv := roomFor_descend hroom (digitAt v n)
  have hroomw := roomFor_descend hroom (digitAt v n + 1)
  obtain ⟨hline, hmeet⟩ := corners_meet c.2.2 (digitAt v n) h.ne_three
  rw [refDecodeFrom_succ, refDecodeFrom_succ, h.grows]
  refine neighbours_of_add_eq ?_ hmeet
  calc cellOf (refDecodeFrom v n (descend c (digitAt v n))) + cornerOf (nextState c.2.2 (digitAt v n)) 3
      = 2 ^ n • (cellOf (descend c (digitAt v n)) + cornerOf (nextState c.2.2 (digitAt v n)) 3) :=
        refDecodeFrom_corner h.low_three hroomv
    _ = 2 ^ n • (cellOf (descend c (digitAt v n + 1)) + cornerOf (nextState c.2.2 (digitAt v n + 1)) 0) := by
        rw [cellOf_descend hroom, cellOf_descend hroom, add_assoc, add_assoc, hline]
    _ = cellOf (refDecodeFrom w n (descend c (digitAt v n + 1))) + cornerOf (nextState c.2.2 (digitAt v n + 1)) 0 :=
        (refDecodeFrom_corner h.low_zero hroomw).symm

/-- Above the digit that the carry reaches both indices go the same way. -/
theorem neighbours_of_carriesTo {v w : Index} {n k : Nat} (h : CarriesTo n v w) (hn : n < k)
    {c : Coord × Coord × AutomatonState} (hroom : roomFor k c) :
    neighbours (cellOf (refDecodeFrom v k c)) (cellOf (refDecodeFrom w k c)) := by
  induction k, hn using Nat.le_induction generalizing c with
  | base => exact neighbours_at_carry h hroom
  | succ k hk ih =>
    rw [refDecodeFrom_succ, refDecodeFrom_succ, h.high_same k hk]
    exact ih (roomFor_descend hroom _)

/-! The two ends of the curve. -/

theorem refDecode_of_digits {v : Index} {d : Digit} {k : Nat} (hk : k ≤ 32) (hdigits : ∀ j < k, digitAt v j = d) :
    refDecode v k = (repeatBit (quadrant d).1 k, repeatBit (quadrant d).2 k) := by
  have huniform := refDecodeFrom_uniform v d 0 k hk fun j _ hj => hdigits j (by omega)
  rw [Nat.zero_add] at huniform
  rw [refDecode, huniform]
  rfl

theorem digitAt_zero (j : Nat) : digitAt 0 j = 0 := BitVec.extractLsb'_zero

theorem digitAt_last {k : Nat} (hk : k ≤ 32) : ∀ j < k, digitAt (BitVec.ofNat 64 (4 ^ k - 1)) j = 3 := by
  intro j hj
  rw [show 4 ^ k = 2 ^ (2 * k) from (Nat.pow_mul 2 2 k).symm, digitAt_eq_iff]
  have hbit : ∀ i < 2 * k, (BitVec.ofNat 64 (2 ^ (2 * k) - 1)).getLsbD i = true := fun i hi => by
    rw [BitVec.getLsbD_ofNat, Nat.testBit_two_pow_sub_one, decide_eq_true hi, decide_eq_true (by omega), Bool.and_self]
  exact ⟨hbit (2 * j) (by omega), hbit (2 * j + 1) (by omega)⟩

theorem ones_eq_topCoord : ∀ k : Order, OrderOk k → ones k.toNat = topCoord k := by decide

/-- Settles O51: the carry's two sides are neighbouring corners, which the digits below it keep. -/
theorem consecutiveIndicesAreNeighbours : Obligations.ConsecutiveIndicesAreNeighbours := by
  unfold Obligations.ConsecutiveIndicesAreNeighbours
  intro k hk
  refine ⟨?_, ?_, fun v hv => ?_⟩
  · exact refDecode_of_digits hk.2 fun j _ => digitAt_zero j
  · rw [← ones_eq_topCoord k hk]
    exact refDecode_of_digits hk.2 (digitAt_last hk.2)
  · have hpow : 4 ^ k.toNat ≤ 4 ^ 32 := Nat.pow_le_pow_right (by decide) hk.2
    have hsucc : (v + 1).toNat = v.toNat + 1 := BitVec.toNat_add_of_lt (show v.toNat + 1 < 2 ^ 64 by omega)
    obtain ⟨n, hn, hcarry⟩ := exists_carriesTo hsucc (k := k.toNat) (by omega)
    have hroom : roomFor k.toNat (0, 0, S0) := by
      have hle : 2 ^ k.toNat ≤ 2 ^ 32 := Nat.pow_le_pow_right Nat.two_pos hk.2
      simpa [roomFor, cellOf] using hle
    have hcells := neighbours_of_carriesTo hcarry hn hroom
    simpa only [neighbours, cellOf, refDecode, BitVec.toNat_inj] using hcells

end Sys2Proof.Machine

/-! The encoders' start position, index bound and corners (42_encoder_direct.md R142, R146, R147, R149). -/

namespace Sys2Proof.Machine

open Sys2Proof.Safety

/-! The start position and the uniform levels. -/

/-- The scan of the maximum is that of the OR (40_bitscan.md R104, 42_encoder_direct.md R142). -/
theorem encFront_sp_toInt_eq_msb_or (x y : Coord) (k : Order) (w : EncRegs) :
    (encFront x y k w).sp.toInt =
      msb (workingCopy x k (bitAt x (k.toNat - 1)) ||| workingCopy y k (bitAt y (k.toNat - 1))) := by
  rw [encFront_sp_toInt, msb_maxCoord, msb_or]

/-- Every level above the start position has the reflection bits. -/
theorem bitAt_eq_of_encFront_sp_lt {x y : Coord} {k : Order} (hpt : PointOk x y k) (w : EncRegs) {i : Nat}
    (hi : (encFront x y k w).sp.toInt < (i : Int)) (hik : i < k.toNat) :
    bitAt x i = (encFront x y k w).bitX ∧ bitAt y i = (encFront x y k w).bitY :=
  (encFront_sp_lt_iff hpt w i).mp hi i (Nat.le_refl i) hik

/-- At the start position a reflection bit is missed, or else that level would be uniform too and the start position lower. -/
theorem bitAt_ne_of_encFront_sp_eq {x y : Coord} {k : Order} (hpt : PointOk x y k) (w : EncRegs) {i : Nat}
    (hi : (encFront x y k w).sp.toInt = (i : Int)) :
    bitAt x i ≠ (encFront x y k w).bitX ∨ bitAt y i ≠ (encFront x y k w).bitY := by
  by_contra hmissed
  push Not at hmissed
  have hlower : (encFront x y k w).sp.toInt < (i : Int) := (encFront_sp_lt_iff hpt w i).mpr fun j hj hjk => by
    rcases hj.lt_or_eq with hj | rfl
    · exact bitAt_eq_of_encFront_sp_lt hpt w (by omega) hjk
    · exact hmissed
  omega

/-- Settles O31: the ranges follow from m = k − sp − 1, and the bits from `encFront_sp_lt_iff`. -/
theorem uniformLevelCount : Obligations.UniformLevelCount := by
  unfold Obligations.UniformLevelCount
  intro x y k w hpt
  have hlow := neg_one_le_encFront_sp x y k w
  have hhigh := encFront_sp_lt hpt w
  have hm := encFront_m_toNat hpt w
  have hk : 1 ≤ k.toNat := hpt.1.1
  exact ⟨hlow, by omega, hm, by omega, by omega, by omega, encFront_sp_toInt x y k w, encFront_sp_toInt_eq_msb_or x y k w,
    fun i hi hik => bitAt_eq_of_encFront_sp_lt hpt w hi (by omega), fun i hi => bitAt_ne_of_encFront_sp_eq hpt w hi⟩

/-! The index bound. -/

/-- Both variants complete with the reference index. -/
theorem encodesTo_refEncode {x y : Coord} {k : Order} (hpt : PointOk x y k) (s : State) :
    encodesTo x y k s (refEncode x y k.toNat) := by
  obtain ⟨hk, hx, hy⟩ := hpt
  have hanswer : refAnswer (.encd x y k) = .value (refEncode x y k.toNat) := by
    rw [refAnswer, if_neg (not_not_intro hk), if_neg (not_not_intro hx), if_neg (not_not_intro hy)]
  rw [encodesTo, ← hanswer]
  exact ⟨exec_completesWith_refAnswer (.encd x y k) s, exec_completesWith_refAnswer (.encl x y k) s⟩

/-- n more levels append n digits to the partial index and lose none of its bits (42_encoder_direct.md R144). -/
theorem refEncodeFrom_bounds (x y : Coord) (n : Nat) (a : Index × AutomatonState) (h : (a.1.toNat + 1) * 4 ^ n ≤ 2 ^ 64) :
    a.1.toNat * 4 ^ n ≤ (refEncodeFrom x y n a).1.toNat ∧ (refEncodeFrom x y n a).1.toNat < (a.1.toNat + 1) * 4 ^ n := by
  induction n generalizing a with
  | zero => simp [refEncodeFrom]
  | succ n ih =>
    obtain ⟨acc, st⟩ := a
    rw [Nat.pow_succ', ← Nat.mul_assoc] at h
    have hpos : 0 < 4 ^ n := Nat.pow_pos (by decide)
    have hroom : (acc.toNat + 1) * 2 ^ 2 ≤ 2 ^ 64 := (Nat.le_mul_of_pos_right _ hpos).trans h
    generalize hd : encDigit (romRead encTT (encIndex st (bitAt x n) (bitAt y n))) = d
    have hdigit : d.toNat < 4 := d.isLt
    have hstep : ((acc <<< 2) ||| d.setWidth 64).toNat = acc.toNat * 4 + d.toNat := toNat_shiftLeft_or_setWidth hroom d
    have hupper : (acc.toNat * 4 + d.toNat + 1) * 4 ^ n ≤ (acc.toNat + 1) * 4 * 4 ^ n := Nat.mul_le_mul_right _ (by omega)
    have hlower : acc.toNat * 4 * 4 ^ n ≤ (acc.toNat * 4 + d.toNat) * 4 ^ n := Nat.mul_le_mul_right _ (by omega)
    have hrest := ih ((acc <<< 2) ||| d.setWidth 64, encNext (romRead encTT (encIndex st (bitAt x n) (bitAt y n))))
      (by rw [hstep]; exact hupper.trans h)
    rw [hstep] at hrest
    rw [Nat.pow_succ', ← Nat.mul_assoc, ← Nat.mul_assoc]
    simp only [refEncodeFrom, hd]
    exact ⟨hlower.trans hrest.1, hrest.2.trans_le hupper⟩

theorem refEncode_lt (x y : Coord) {k : Nat} (hk : k ≤ 32) : (refEncode x y k).toNat < 2 ^ (2 * k) := by
  have hpow : 4 ^ k ≤ 4 ^ 32 := Nat.pow_le_pow_right (by decide) hk
  have hbounds := refEncodeFrom_bounds x y k (0, S0) (by simpa using hpow)
  rw [Nat.pow_mul, refEncode]
  simpa using hbounds.2

/-- Settles O38: the index is the reference index, which is k digits long. -/
theorem encodedIndexInRange : Obligations.EncodedIndexInRange := by
  unfold Obligations.EncodedIndexInRange
  exact fun x y k s hpt => ⟨_, encodesTo_refEncode hpt s, refEncode_lt x y hpt.1.2⟩

/-! The corners: a coordinate whose k bits are all its reflection bit is 0 or 2^k − 1. -/

theorem bit_cases (b : Bit) : b = 0#1 ∨ b = 1#1 := by
  revert b
  decide

theorem getLsbD_repeatBit (b : Bit) {r : Nat} (hr : r ≤ 32) (i : Nat) :
    (repeatBit b r).getLsbD i = (decide (i < r) && b.getLsbD 0) := by
  rcases bit_cases b with rfl | rfl
  · simp [repeatBit]
  · simp [repeatBit, getLsbD_ones hr]

theorem bitAt_repeatBit (b : Bit) {r i : Nat} (hr : r ≤ 32) (hi : i < r) : bitAt (repeatBit b r) i = b := by
  rw [bitAt_eq_iff, getLsbD_repeatBit b hr, decide_eq_true hi, Bool.true_and]

theorem repeatBit_lt (b : Bit) {r : Nat} (hr : r ≤ 32) : (repeatBit b r).toNat < 2 ^ r := by
  rw [toNat_lt_two_pow_iff_getLsbD]
  intro j hj
  rw [getLsbD_repeatBit b hr, decide_eq_false (by omega), Bool.false_and]

/-- A working copy is zero exactly when all k bits of the coordinate are the reflection bit (42_encoder_direct.md R141). -/
theorem workingCopy_eq_zero_iff {x : Coord} {k : Order} (hk : k.toNat ≤ 32) (hx : x.toNat < 2 ^ k.toNat) (b : Bit) :
    workingCopy x k b = 0 ↔ x = repeatBit b k.toNat := by
  constructor
  · intro hzero
    have hclear := (toNat_lt_two_pow_iff_getLsbD x k.toNat).mp hx
    refine BitVec.eq_of_getLsbD_eq fun i _ => ?_
    rw [getLsbD_repeatBit b hk]
    rcases Nat.lt_or_ge i k.toNat with hik | hik
    · have hbit : bitAt x i = b := (getLsbD_workingCopy_eq_false_iff x hk b hik).mp (by rw [hzero]; exact BitVec.getLsbD_zero)
      rw [(bitAt_eq_iff x i b).mp hbit, decide_eq_true hik, Bool.true_and]
    · rw [hclear i hik, decide_eq_false (by omega), Bool.false_and]
  · rintro rfl
    refine BitVec.eq_of_getLsbD_eq fun i _ => ?_
    rw [BitVec.ofNat_eq_ofNat, BitVec.getLsbD_zero]
    rcases Nat.lt_or_ge i k.toNat with hik | hik
    · exact (getLsbD_workingCopy_eq_false_iff _ hk b hik).mpr (bitAt_repeatBit b hk hik)
    · exact getLsbD_workingCopy_of_ge hk hx b hik

theorem repeatBit_zero (r : Nat) : repeatBit 0#1 r = 0 := rfl

theorem repeatBit_one {k : Order} (hk : OrderOk k) : repeatBit 1#1 k.toNat = topCoord k := ones_eq_topCoord k hk

/-- The working copy of step 1 is zero exactly at the two ends of the coordinate's range (42_encoder_direct.md R146). -/
theorem workingCopy_reflected_eq_zero_iff {x : Coord} {k : Order} (hk : OrderOk k) (hx : x.toNat < 2 ^ k.toNat) :
    workingCopy x k (bitAt x (k.toNat - 1)) = 0 ↔ x = 0 ∨ x = topCoord k := by
  have htop : k.toNat - 1 < k.toNat := Nat.sub_one_lt_of_lt hk.1
  rw [workingCopy_eq_zero_iff hk.2 hx, ← repeatBit_one hk]
  constructor
  · intro hx'
    rcases bit_cases (bitAt x (k.toNat - 1)) with hb | hb <;> rw [hb] at hx'
    · exact .inl hx'
    · exact .inr hx'
  · rintro (hx' | hx')
    · rw [hx', ← repeatBit_zero k.toNat, bitAt_repeatBit 0#1 hk.2 htop]
    · rw [hx', bitAt_repeatBit 1#1 hk.2 htop]

/-- With both working copies zero the scan gives its sentinel, so every level is uniform. -/
theorem encFront_of_workingCopies_zero {x y : Coord} {k : Order} (hpt : PointOk x y k) (w : EncRegs)
    (hwx : (reflect x y k w).wx = 0) (hwy : (reflect x y k w).wy = 0) :
    (encFront x y k w).sp.toInt = -1 ∧ (encFront x y k w).m.toNat = k.toNat := by
  have hsp : (encFront x y k w).sp.toInt = -1 := by
    rw [reflect_wx] at hwx
    rw [reflect_wy] at hwy
    rw [encFront_sp_toInt_eq_msb_or, hwx, hwy]
    exact msb_zero 32
  have hm := encFront_m_toNat hpt w
  exact ⟨hsp, by omega⟩

theorem pointOk_repeatBit {k : Order} (hk : OrderOk k) (bx bY : Bit) :
    PointOk (repeatBit bx k.toNat) (repeatBit bY k.toNat) k :=
  ⟨hk, repeatBit_lt bx hk.2, repeatBit_lt bY hk.2⟩

/-- A corner's index is d0 · A(k), for the digit d0 of its quadrant (42_encoder_direct.md R146). -/
theorem refEncode_repeatBit (bx bY : Bit) {k : Nat} (hk : k ≤ 32) :
    refEncode (repeatBit bx k) (repeatBit bY k) k = scale (topDigit bx bY) (repunit k) := by
  have huniform := refEncodeFrom_uniform (repeatBit bx k) (repeatBit bY k) bx bY 0 k hk fun i _ hi =>
    ⟨bitAt_repeatBit bx hk (by omega), bitAt_repeatBit bY hk (by omega)⟩
  rw [Nat.zero_add] at huniform
  exact congrArg Prod.fst huniform

/-- A scaled repunit as a number: d · (4^m − 1)/3 (41_tables.md R117). -/
theorem scale_repunit_eq_ofNat (d : Digit) {m : Nat} (h1 : 1 ≤ m) (hm : m ≤ 32) :
    scale d (repunit m) = BitVec.ofNat 64 (d.toNat * ((4 ^ m - 1) / 3)) := by
  obtain ⟨-, -, hvalues⟩ := repunitValues
  obtain ⟨hrepunit, -, hscale⟩ := hvalues m h1 hm
  rw [← hrepunit, Nat.mul_div_cancel_left _ (by decide), ← hscale d, BitVec.ofNat_toNat, BitVec.setWidth_eq]

theorem encodesTo_repeatBit {k : Order} (hk : OrderOk k) (bx bY : Bit) (s : State) :
    encodesTo (repeatBit bx k.toNat) (repeatBit bY k.toNat) k s
      (BitVec.ofNat 64 ((topDigit bx bY).toNat * ((4 ^ k.toNat - 1) / 3))) := by
  rw [← scale_repunit_eq_ofNat (topDigit bx bY) hk.1 hk.2, ← refEncode_repeatBit bx bY hk.2]
  exact encodesTo_refEncode (pointOk_repeatBit hk bx bY) s

/-- The last index is 3 · A(k) = 4^k − 1 (42_encoder_direct.md R146). -/
theorem three_mul_repunit_value (k : Nat) : 3 * ((4 ^ k - 1) / 3) = 4 ^ k - 1 :=
  Nat.mul_div_cancel' (by simpa using Nat.sub_dvd_pow_sub_pow 4 1 k)

/-- Settles O39: the corners are the points of repeated bits, where all k levels are uniform. -/
theorem encodeCorners : Obligations.EncodeCorners := by
  unfold Obligations.EncodeCorners
  refine ⟨fun x y k w hpt => ⟨?_, fun hzero => encFront_of_workingCopies_zero hpt w hzero.1 hzero.2⟩, fun k s hk => ?_⟩
  · obtain ⟨hk, hx, hy⟩ := hpt
    exact and_congr (workingCopy_reflected_eq_zero_iff hk hx) (workingCopy_reflected_eq_zero_iff hk hy)
  · have h00 := encodesTo_repeatBit hk 0#1 0#1 s
    have h01 := encodesTo_repeatBit hk 0#1 1#1 s
    have h11 := encodesTo_repeatBit hk 1#1 1#1 s
    have h10 := encodesTo_repeatBit hk 1#1 0#1 s
    rw [repeatBit_zero] at h00
    rw [repeatBit_zero, repeatBit_one hk] at h01 h10
    rw [repeatBit_one hk] at h11
    simp only [topDigit, BitVec.ofNat_eq_ofNat, BitVec.toNat_ofNat, Nat.reducePow, Nat.reduceMod, Nat.zero_mul, Nat.one_mul,
      three_mul_repunit_value] at h00 h01 h11 h10
    exact ⟨h00, h01, h11, h10⟩

/-! Order 1: every valid point is a corner. -/

theorem topCoord_one : topCoord 1 = 1 := rfl

theorem eq_zero_or_eq_topCoord_one {x : Coord} (hx : x.toNat < 2 ^ (1 : Order).toNat) : x = 0 ∨ x = topCoord 1 := by
  have hx2 : x.toNat < 2 := hx
  rcases Nat.lt_or_ge x.toNat 1 with h | h
  · exact .inl (BitVec.eq_of_toNat_eq (show x.toNat = 0 by omega))
  · exact .inr (BitVec.eq_of_toNat_eq (show x.toNat = 1 by omega))

/-- Settles O40: at order 1 the four corners are the four cells. -/
theorem encodeOrderOne : Obligations.EncodeOrderOne := by
  unfold Obligations.EncodeOrderOne
  obtain ⟨hcorner, hindex⟩ := encodeCorners
  refine ⟨by decide, fun x y w hpt => ?_, fun s => ?_⟩
  · obtain ⟨hiff, hfront⟩ := hcorner x y 1 w hpt
    obtain ⟨-, hx, hy⟩ := hpt
    have hzero := hiff.mpr ⟨eq_zero_or_eq_topCoord_one hx, eq_zero_or_eq_topCoord_one hy⟩
    obtain ⟨hsp, hm⟩ := hfront hzero
    exact ⟨hzero.1, hzero.2, hsp, BitVec.eq_of_toNat_eq hm⟩
  · have hcells := hindex 1 s (by decide)
    rw [topCoord_one] at hcells
    exact hcells

end Sys2Proof.Machine

/-! The two encoder variants (43_encoder_lut.md R162): both have the reference answer, so they agree in status and index. -/

namespace Sys2Proof.Machine

open Sys2Proof.Safety

/-- The reference answer does not tell the variants apart: the checks and the automaton are the same. -/
theorem refAnswer_encl (x y : Coord) (k : Order) : refAnswer (.encl x y k) = refAnswer (.encd x y k) := rfl

theorem namesWrites_refAnswer (i : Instr) : namesWrites i (refAnswer i) := by
  rw [← execAnswer_eq_refAnswer State.reset.enc State.reset.dec i]
  exact namesWrites_execAnswer State.reset.enc State.reset.dec i

/-- On a valid point ENCD ends with status OK. -/
theorem status_ok_of_exec_encd {x y : Coord} {k : Order} (hpt : PointOk x y k) {s t : State}
    (ht : exec (.encd x y k) s = .next t) : t.rsp.status = .ok := by
  obtain ⟨⟨u, hu, ⟨hok, -⟩, -⟩, -⟩ := encodesTo_refEncode hpt s
  have htu : t = u := Host.Outcome.next.inj (ht.symm.trans hu)
  rw [htu, hok]

/-- Settles O37: the responses of the two variants carry one answer, the reference's, so they agree in what an encode writes. -/
theorem variantsAgree : Obligations.VariantsAgree := by
  unfold Obligations.VariantsAgree
  intro x y k s s'
  obtain ⟨t, ht, hcarries, -⟩ := exec_completesWith_refAnswer (.encd x y k) s
  obtain ⟨t', ht', hcarries', -⟩ := exec_completesWith_refAnswer (.encl x y k) s'
  rw [refAnswer_encl] at hcarries'
  obtain ⟨hstatus, hfields⟩ := agreeOn_of_carries (namesWrites_refAnswer (.encd x y k)) hcarries hcarries'
  exact ⟨t, t', ht, ht', hstatus, fun hok => (hfields hok).1 rfl, fun hpt => status_ok_of_exec_encd hpt ht⟩

end Sys2Proof.Machine

/-! Encoder and decoder as inverses (44_decoder.md R177): level by level the two automata pass through the same states, and each
reads off the operand what the other has shifted into its result. -/

namespace Sys2Proof.Machine

open Sys2Proof.Safety

/-! A field shifted in from the right, as it is read back. -/

/-- The field shifted in is read at the bottom. -/
theorem extractLsb'_zero_shiftLeft_or_setWidth {w i : Nat} (h : i ≤ w) (a : BitVec w) (b : BitVec i) :
    ((a <<< i) ||| b.setWidth w).extractLsb' 0 i = b := by
  refine BitVec.eq_of_getLsbD_eq fun j hj => ?_
  have hjw : j < w := by omega
  simp [hj, hjw]

/-- What stood there before is read i bits higher up, as long as it fits. -/
theorem extractLsb'_add_shiftLeft_or_setWidth {w i p : Nat} (h : p + i + i ≤ w) (a : BitVec w) (b : BitVec i) :
    ((a <<< i) ||| b.setWidth w).extractLsb' (p + i) i = a.extractLsb' p i := by
  refine BitVec.eq_of_getLsbD_eq fun j hj => ?_
  have hjw : p + i + j < w := by omega
  have hb : b.getLsbD (p + i + j) = false := BitVec.getLsbD_of_ge b _ (by omega)
  simp only [BitVec.getLsbD_extractLsb', BitVec.getLsbD_or, BitVec.getLsbD_shiftLeft, BitVec.getLsbD_setWidth, hb, hjw, hj,
    decide_true, Bool.true_and, Bool.and_false, Bool.or_false]
  rw [decide_eq_false (show ¬ p + i + j < i by omega), Bool.not_false, Bool.true_and, show p + i + j - i = p + j by omega]

/-- Shifting the field at p into the part of the word above it gives the part from p up. -/
theorem ushiftRight_add_shiftLeft_or_extractLsb' {w : Nat} (a : BitVec w) (p i : Nat) :
    ((a >>> (p + i)) <<< i) ||| (a.extractLsb' p i).setWidth w = a >>> p := by
  refine BitVec.eq_of_getLsbD_eq fun j hj => ?_
  rcases Nat.lt_or_ge j i with hji | hji
  · simp [hj, hji]
  · simp [hj, hji, show ¬ j < i by omega, show p + i + (j - i) = p + j by omega]

theorem ushiftRight_eq_zero_of_lt {w : Nat} {a : BitVec w} {p : Nat} (h : a.toNat < 2 ^ p) : a >>> p = 0#w := by
  simpa [h] using (ushiftRight_ne_zero_iff a p).not

theorem digitAt_zero_shiftLeft_or (a : Index) (d : Digit) : digitAt ((a <<< 2) ||| d.setWidth 64) 0 = d :=
  extractLsb'_zero_shiftLeft_or_setWidth (by decide) a d

theorem digitAt_succ_shiftLeft_or (a : Index) (d : Digit) {j : Nat} (hj : j + 1 < 32) :
    digitAt ((a <<< 2) ||| d.setWidth 64) (j + 1) = digitAt a j :=
  extractLsb'_add_shiftLeft_or_setWidth (p := 2 * j) (by omega) a d

theorem bitAt_zero_shiftLeft_or (a : Coord) (b : Bit) : bitAt ((a <<< 1) ||| b.setWidth 32) 0 = b :=
  extractLsb'_zero_shiftLeft_or_setWidth (by decide) a b

theorem bitAt_succ_shiftLeft_or (a : Coord) (b : Bit) {j : Nat} (hj : j + 1 < 32) :
    bitAt ((a <<< 1) ||| b.setWidth 32) (j + 1) = bitAt a j :=
  extractLsb'_add_shiftLeft_or_setWidth (by omega) a b

/-! What n levels emit lies in the low n digits or bits; what was there before is kept above. -/

theorem digitAt_refEncodeFrom (x y : Coord) (n : Nat) (a : Index × AutomatonState) {j : Nat} (hj : n + j < 32) :
    digitAt (refEncodeFrom x y n a).1 (n + j) = digitAt a.1 j := by
  induction n generalizing a j with
  | zero => rw [Nat.zero_add, refEncodeFrom]
  | succ n ih =>
    rw [Nat.add_right_comm n 1 j, Nat.add_assoc, refEncodeFrom, ih _ (by omega)]
    exact digitAt_succ_shiftLeft_or a.1 _ (by omega)

/-- The digit that level n emits is digit n of the result. -/
theorem digitAt_refEncodeFrom_succ (x y : Coord) {n : Nat} (hn : n < 32) (a : Index × AutomatonState) :
    digitAt (refEncodeFrom x y (n + 1) a).1 n = encDigit (romRead encTT (encIndex a.2 (bitAt x n) (bitAt y n))) := by
  rw [refEncodeFrom]
  exact (digitAt_refEncodeFrom x y n _ (j := 0) hn).trans (digitAt_zero_shiftLeft_or a.1 _)

theorem bitAt_refDecodeFrom (v : Index) (n : Nat) (c : Coord × Coord × AutomatonState) {j : Nat} (hj : n + j < 32) :
    bitAt (refDecodeFrom v n c).1 (n + j) = bitAt c.1 j ∧ bitAt (refDecodeFrom v n c).2.1 (n + j) = bitAt c.2.1 j := by
  induction n generalizing c j with
  | zero => rw [Nat.zero_add, refDecodeFrom]; exact ⟨rfl, rfl⟩
  | succ n ih =>
    rw [Nat.add_right_comm n 1 j, Nat.add_assoc, refDecodeFrom]
    obtain ⟨hx, hy⟩ := ih _ (j := j + 1) (by omega)
    exact ⟨hx.trans (bitAt_succ_shiftLeft_or c.1 _ (by omega)), hy.trans (bitAt_succ_shiftLeft_or c.2.1 _ (by omega))⟩

/-- The bits that digit n writes are bit n of each coordinate. -/
theorem bitAt_refDecodeFrom_succ (v : Index) {n : Nat} (hn : n < 32) (c : Coord × Coord × AutomatonState) :
    bitAt (refDecodeFrom v (n + 1) c).1 n = decBitX (romRead decTT (decIndex c.2.2 (digitAt v n))) ∧
      bitAt (refDecodeFrom v (n + 1) c).2.1 n = decBitY (romRead decTT (decIndex c.2.2 (digitAt v n))) := by
  rw [refDecodeFrom]
  obtain ⟨hx, hy⟩ := bitAt_refDecodeFrom v n _ (j := 0) hn
  exact ⟨hx.trans (bitAt_zero_shiftLeft_or c.1 _), hy.trans (bitAt_zero_shiftLeft_or c.2.1 _)⟩

/-! The automata in lockstep. -/

/-- One level of the decoder, on the digit that the encoder emits for the point's bits in the same state. -/
theorem refDecodeFrom_succ_encDigit {v : Index} {x y : Coord} {n : Nat} {s : AutomatonState}
    (hd : digitAt v n = encDigit (romRead encTT (encIndex s (bitAt x n) (bitAt y n)))) :
    refDecodeFrom v (n + 1) (x >>> (n + 1), y >>> (n + 1), s) =
      refDecodeFrom v n (x >>> n, y >>> n, encNext (romRead encTT (encIndex s (bitAt x n) (bitAt y n)))) := by
  obtain ⟨hx, hy, hnext⟩ := decTT_encDigit s (bitAt x n) (bitAt y n)
  rw [refDecodeFrom, hd, hx, hy, hnext, bitAt, bitAt, ushiftRight_add_shiftLeft_or_extractLsb',
    ushiftRight_add_shiftLeft_or_extractLsb']

/-- One level of the encoder, on the bits that the decoder writes for the index's digit in the same state. -/
theorem refEncodeFrom_succ_decBits {v : Index} {x y : Coord} {n : Nat} {s : AutomatonState}
    (hx : bitAt x n = decBitX (romRead decTT (decIndex s (digitAt v n))))
    (hy : bitAt y n = decBitY (romRead decTT (decIndex s (digitAt v n)))) :
    refEncodeFrom x y (n + 1) (v >>> (2 * (n + 1)), s) =
      refEncodeFrom x y n (v >>> (2 * n), decNext (romRead decTT (decIndex s (digitAt v n)))) := by
  obtain ⟨hd, hnext⟩ := encTT_decBits s (digitAt v n)
  rw [refEncodeFrom, hx, hy, hd, hnext, digitAt, Nat.mul_add_one, ushiftRight_add_shiftLeft_or_extractLsb']

/-- The decoder follows the digits of the encoder's last n levels back to the point: it starts with the point's bits above them and
in the encoder's state. -/
theorem refDecodeFrom_refEncodeFrom (x y : Coord) {n : Nat} (hn : n ≤ 32) (a : Index × AutomatonState) :
    refDecodeFrom (refEncodeFrom x y n a).1 n (x >>> n, y >>> n, a.2) = (x, y, (refEncodeFrom x y n a).2) := by
  induction n generalizing a with
  | zero => rfl
  | succ n ih =>
    rw [refDecodeFrom_succ_encDigit (digitAt_refEncodeFrom_succ x y hn a)]
    exact ih (by omega) _

/-- The encoder follows the bits of the decoder's last n digits back to the index: it starts with the index's digits above them and
in the decoder's state. -/
theorem refEncodeFrom_refDecodeFrom (v : Index) {n : Nat} (hn : n ≤ 32) (c : Coord × Coord × AutomatonState) :
    refEncodeFrom (refDecodeFrom v n c).1 (refDecodeFrom v n c).2.1 n (v >>> (2 * n), c.2.2) =
      (v, (refDecodeFrom v n c).2.2) := by
  induction n generalizing c with
  | zero => rfl
  | succ n ih =>
    obtain ⟨hx, hy⟩ := bitAt_refDecodeFrom_succ v hn c
    rw [refEncodeFrom_succ_decBits hx hy]
    exact ih (by omega) _

theorem refDecode_refEncode {x y : Coord} {k : Order} (hpt : PointOk x y k) :
    refDecode (refEncode x y k.toNat) k.toNat = (x, y) := by
  obtain ⟨hk, hx, hy⟩ := hpt
  have hlockstep := refDecodeFrom_refEncodeFrom x y hk.2 (0, S0)
  rw [ushiftRight_eq_zero_of_lt hx, ushiftRight_eq_zero_of_lt hy] at hlockstep
  exact congrArg (fun c => (c.1, c.2.1)) hlockstep

theorem refEncode_refDecode {v : Index} {k : Order} (hv : IndexOk v k) :
    refEncode (refDecode v k.toNat).1 (refDecode v k.toNat).2 k.toNat = v := by
  have hlockstep := refEncodeFrom_refDecodeFrom v hv.1.2 (0, 0, S0)
  rw [ushiftRight_eq_zero_of_lt hv.2] at hlockstep
  exact congrArg Prod.fst hlockstep

/-! Both directions, as the operations give them. -/

/-- A coordinate whose bits from k up are zero is below 2^k. -/
theorem toNat_lt_of_bitAt {x : Coord} {k : Nat} (hx : ∀ j, k + j < 32 → bitAt x (k + j) = 0) : x.toNat < 2 ^ k := by
  rw [toNat_lt_two_pow_iff_getLsbD]
  intro i hi
  rcases Nat.lt_or_ge i 32 with h | h
  · have hbit := hx (i - k) (by omega)
    rwa [Nat.add_sub_cancel' hi, bitAt_eq_iff] at hbit
  · exact BitVec.getLsbD_of_ge x i h

/-- The reference decoder's cell is in range, on any index (44_decoder.md R176). -/
theorem pointOk_refDecode (v : Index) {k : Order} (hk : OrderOk k) :
    PointOk (refDecode v k.toNat).1 (refDecode v k.toNat).2 k := by
  have hbits : ∀ j, bitAt 0 j = 0 := fun j => BitVec.extractLsb'_zero
  exact ⟨hk, toNat_lt_of_bitAt fun j hj => (bitAt_refDecodeFrom v k.toNat (0, 0, S0) hj).1.trans (hbits j),
    toNat_lt_of_bitAt fun j hj => (bitAt_refDecodeFrom v k.toNat (0, 0, S0) hj).2.trans (hbits j)⟩

/-- DEC completes with the reference cell. -/
theorem decodesTo_refDecode {v : Index} {k : Order} (hv : IndexOk v k) (s : State) :
    decodesTo v k s (refDecode v k.toNat).1 (refDecode v k.toNat).2 := by
  have hanswer : refAnswer (.dec v k) = .cell (refDecode v k.toNat).1 (refDecode v k.toNat).2 := by
    rw [refAnswer, if_neg (not_not_intro hv.1), if_neg (not_not_intro hv.2)]
  rw [decodesTo, ← hanswer]
  exact exec_completesWith_refAnswer (.dec v k) s

/-- DEC takes the index of a point back to the point. -/
theorem decodesTo_refEncode {x y : Coord} {k : Order} (hpt : PointOk x y k) (s : State) :
    decodesTo (refEncode x y k.toNat) k s x y := by
  have hdec := decodesTo_refDecode ⟨hpt.1, refEncode_lt x y hpt.1.2⟩ s
  rwa [refDecode_refEncode hpt] at hdec

/-- Both encoders take the cell of an index back to the index. -/
theorem encodesTo_refDecode {v : Index} {k : Order} (hv : IndexOk v k) (s : State) :
    encodesTo (refDecode v k.toNat).1 (refDecode v k.toNat).2 k s v := by
  have henc := encodesTo_refEncode (pointOk_refDecode v hv.1) s
  rwa [refEncode_refDecode hv] at henc

/-- Settles O50: the operations give the reference automata's results, and those run in lockstep. -/
theorem roundTrip : Obligations.RoundTrip := by
  unfold Obligations.RoundTrip
  exact ⟨fun x y k s s' hpt => ⟨_, encodesTo_refEncode hpt s, decodesTo_refEncode hpt s'⟩,
    fun v k s s' hv => ⟨_, _, pointOk_refDecode v hv.1, decodesTo_refDecode hv s, encodesTo_refDecode hv s'⟩⟩

end Sys2Proof.Machine

/-! The decoder on an index of equal digits, and at order 1 (44_decoder.md R180, R181): the seeds are the whole result, and the
corners are read back from the encoders. -/

namespace Sys2Proof.Machine

open Sys2Proof.Safety

/-- The whole index is the run when all digits are the top digit. -/
theorem decFront_run_of_equal_digits {v : Index} {k : Order} (hv : IndexOk v k) (w : DecRegs)
    (hdigits : ∀ j, j < k.toNat → digitAt v j = digitAt v (k.toNat - 1)) : (decFront v k w).run.toNat = k.toNat := by
  obtain ⟨-, -, hle⟩ := decFront_run_toNat hv w
  have hk : 1 ≤ k.toNat := hv.1.1
  exact hle.antisymm ((le_decFront_run_iff_leadingRun hv w hk (Nat.le_refl _)).mpr fun j _ hj => hdigits j (by omega))

/-- With no digit left after the run the loop does not run, and the seeds are the result. -/
theorem runDecode_cell_of_run_eq {v : Index} {k : Order} {w : DecRegs} (hrun : (decFront v k w).run.toNat = k.toNat) :
    (runDecode v k w).x = (decFront v k w).x ∧ (runDecode v k w).y = (decFront v k w).y := by
  have hcell := runDecode_eq_refDecodeFrom v k w
  rw [hrun, Nat.sub_self, refDecodeFrom, Prod.mk.injEq, Prod.mk.injEq] at hcell
  obtain ⟨hx, hy, -⟩ := hcell
  exact ⟨hx, hy⟩

/-- An operation completes with one index only, so what an encoder answers is what DEC takes back. -/
theorem decodesTo_of_encodesTo {x y : Coord} {k : Order} {s : State} {v : Index} (hpt : PointOk x y k)
    (h : encodesTo x y k s v) : decodesTo v k s x y := by
  obtain ⟨⟨t, ht, ⟨-, hr⟩, -⟩, -⟩ := h
  obtain ⟨⟨t', ht', ⟨-, hr'⟩, -⟩, -⟩ := encodesTo_refEncode hpt s
  obtain rfl : t = t' := Host.Outcome.next.inj (ht.symm.trans ht')
  rw [← hr, hr']
  exact decodesTo_refEncode hpt s

/-- Settles O47: the run is all k digits, and the four indices are those that the encoders give the corners. -/
theorem decodeWholeRun : Obligations.DecodeWholeRun := by
  unfold Obligations.DecodeWholeRun
  refine ⟨fun v k w hv hdigits => ?_, fun k s hk => ?_⟩
  · have hrun := decFront_run_of_equal_digits hv w hdigits
    exact ⟨hrun, runDecode_cell_of_run_eq hrun⟩
  · obtain ⟨-, hcorners⟩ := encodeCorners
    obtain ⟨h00, h01, h11, h10⟩ := hcorners k s hk
    have hzero : (0 : Coord).toNat < 2 ^ k.toNat := Nat.two_pow_pos _
    have htop : (topCoord k).toNat < 2 ^ k.toNat := repeatBit_one hk ▸ repeatBit_lt 1#1 hk.2
    exact ⟨decodesTo_of_encodesTo ⟨hk, hzero, hzero⟩ h00, decodesTo_of_encodesTo ⟨hk, hzero, htop⟩ h01,
      decodesTo_of_encodesTo ⟨hk, htop, htop⟩ h11, decodesTo_of_encodesTo ⟨hk, htop, hzero⟩ h10⟩

/-- Settles O48: the run is at least 1 and at most the order, and the four indices are those of the corners. -/
theorem decodeOrderOne : Obligations.DecodeOrderOne := by
  unfold Obligations.DecodeOrderOne
  refine ⟨fun v w hv => ?_, fun s => ?_⟩
  · obtain ⟨-, hge, hle⟩ := decFront_run_toNat hv w
    exact BitVec.eq_of_toNat_eq (hle.antisymm hge)
  · obtain ⟨-, hcorners⟩ := decodeWholeRun
    have hcells := hcorners 1 s (by decide)
    rw [topCoord_one] at hcells
    exact hcells

end Sys2Proof.Machine

/-! The faults (60_exceptions.md R190 to R197, R211): every operation runs its checks and completes with the status they give,
so each statement is a fact about `check`. -/

namespace Sys2Proof.Machine

open Sys2Proof.Safety

/-! The status that the checks give, and that every operation reports it. -/

/-- The status of a request whose checks find the fault, if any, that is given (60_exceptions.md R190, R191). -/
def checkStatus : Option FaultCode → Status
  | none => .ok
  | some f => .fault f

@[simp] theorem checkStatus_eq_ok_iff (c : Option FaultCode) : checkStatus c = .ok ↔ c = none := by
  cases c <;> simp [checkStatus]

@[simp] theorem checkStatus_eq_fault_iff (c : Option FaultCode) (f : FaultCode) : checkStatus c = .fault f ↔ c = some f := by
  cases c <;> simp [checkStatus]

theorem execAnswer_toResponse_status (w : EncRegs) (u : DecRegs) (i : Instr) (n : Nat) :
    ((execAnswer w u i).toResponse n).status = checkStatus (check i) := by
  cases i with
  | encd x y k => simp only [execAnswer, check]; cases checkEncode x y k <;> rfl
  | encl x y k => simp only [execAnswer, check]; cases checkEncode x y k <;> rfl
  | dec v k => simp only [execAnswer, check]; cases checkDecode v k <;> rfl
  | _ => rfl

/-- Every operation completes, in every state, with the status of its checks. -/
theorem exec_status (i : Instr) (s : State) :
    ∃ t, exec i s = .next t ∧ t.phase = .done ∧ t.rsp.status = checkStatus (check i) :=
  ⟨_, exec_eq_completed_execAnswer i s, rfl, execAnswer_toResponse_status s.enc s.dec i s.freeCount⟩

/-- A fault that the checks find is what the operation completes with. -/
theorem exec_faults_of_check {i : Instr} {f : FaultCode} (h : check i = some f) (s : State) :
    ∃ t, exec i s = .next t ∧ completesWith t (.fault f) := by
  obtain ⟨t, ht, hdone, hstatus⟩ := exec_status i s
  exact ⟨t, ht, hstatus.trans ((checkStatus_eq_fault_iff _ f).mpr h), hdone⟩

/-! The fault of each operation, in its priority (60_exceptions.md R197). -/

theorem encodeFaults_of_checkEncode {x y : Coord} {k : Order} {f : FaultCode} (h : checkEncode x y k = some f) (s : State) :
    encodeFaults x y k s f :=
  ⟨exec_faults_of_check (i := .encd x y k) h s, exec_faults_of_check (i := .encl x y k) h s⟩

/-- Settles O41: the first range that a point misses is the fault that the checks of both variants find. -/
theorem encoderFaults : Obligations.EncoderFaults := by
  unfold Obligations.EncoderFaults
  intro x y k s
  refine ⟨fun hk => encodeFaults_of_checkEncode ?_ s, fun hk hx => encodeFaults_of_checkEncode ?_ s,
    fun hk hx hy => encodeFaults_of_checkEncode ?_ s⟩
  · rw [checkEncode_eq, if_pos hk]
  · rw [checkEncode_eq, if_neg (not_not_intro hk), if_pos hx.not_gt]
  · rw [checkEncode_eq, if_neg (not_not_intro hk), if_neg (not_not_intro hx), if_pos hy.not_gt]

/-- Settles O49: the first range that an index misses is the fault that the checks of DEC find. -/
theorem decoderFaults : Obligations.DecoderFaults := by
  unfold Obligations.DecoderFaults
  intro v k s
  refine ⟨fun hk => exec_faults_of_check ?_ s, fun hk hv => exec_faults_of_check ?_ s⟩
  · rw [check, checkDecode_eq, if_pos hk]
  · rw [check, checkDecode_eq, if_neg (not_not_intro hk), if_pos hv.not_gt]

/-- A reserved code fails its check, whatever the other fields hold (60_exceptions.md R192). -/
theorem check_decodeRequest_of_reserved {q : Request} (hop : q.op = 5 ∨ q.op = 6 ∨ q.op = 7) :
    check (decodeRequest q) = some .illegalOp := by
  unfold decodeRequest
  rcases hop with hop | hop | hop <;> rw [hop] <;> rfl

/-- Settles O52: each reserved operation fails its check with IllegalOp, and the three codes select no other operation. -/
theorem reservedCodesFault : Obligations.ReservedCodesFault := by
  unfold Obligations.ReservedCodesFault
  refine ⟨fun s => ⟨exec_faults_of_check rfl s, exec_faults_of_check rfl s, exec_faults_of_check rfl s⟩, fun q s hop => ?_⟩
  obtain ⟨t, ht, hfault, -⟩ := exec_faults_of_check (check_decodeRequest_of_reserved hop) s
  exact ⟨t, ht, hfault⟩

/-! The checks pass exactly on the documented preconditions. -/

theorem checkEncode_eq_none_iff (x y : Coord) (k : Order) : checkEncode x y k = none ↔ PointOk x y k := by
  rw [checkEncode_eq]
  split_ifs with hk hx hy
  · exact iff_of_true rfl ⟨hk, hx, hy⟩
  · exact iff_of_false nofun fun ⟨_, _, hy'⟩ => hy hy'
  · exact iff_of_false nofun fun ⟨_, hx', _⟩ => hx hx'
  · exact iff_of_false nofun fun ⟨hk', _⟩ => hk hk'

theorem checkDecode_eq_none_iff (v : Index) (k : Order) : checkDecode v k = none ↔ IndexOk v k := by
  rw [checkDecode_eq]
  split_ifs with hk hv
  · exact iff_of_true rfl ⟨hk, hv⟩
  · exact iff_of_false nofun fun ⟨_, hv'⟩ => hv hv'
  · exact iff_of_false nofun fun ⟨hk', _⟩ => hk hk'

theorem wellFormed_encd_iff (x y : Coord) (k : Order) : (Instr.encd x y k).wellFormed = true ↔ PointOk x y k := by
  simp only [Instr.wellFormed, validOrder, validCoord, Bool.and_eq_true, decide_eq_true_eq, and_assoc]

theorem wellFormed_dec_iff (v : Index) (k : Order) : (Instr.dec v k).wellFormed = true ↔ IndexOk v k := by
  simp only [Instr.wellFormed, validOrder, validIndex, Bool.and_eq_true, decide_eq_true_eq]

/-- For every instruction the checks and the documented preconditions are one condition (60_exceptions.md R190). -/
theorem check_eq_none_iff_wellFormed (i : Instr) : check i = none ↔ i.wellFormed = true := by
  cases i with
  | msb32 x => exact iff_of_true rfl rfl
  | msb64 v => exact iff_of_true rfl rfl
  | encd x y k => exact (checkEncode_eq_none_iff x y k).trans (wellFormed_encd_iff x y k).symm
  | encl x y k => exact (checkEncode_eq_none_iff x y k).trans (wellFormed_encd_iff x y k).symm
  | dec v k => exact (checkDecode_eq_none_iff v k).trans (wellFormed_dec_iff v k).symm
  | reserved5 => exact iff_of_false nofun nofun
  | reserved6 => exact iff_of_false nofun nofun
  | reserved7 => exact iff_of_false nofun nofun

/-- Settles O53: the checks are the preconditions, and their status is the one reported. -/
theorem checksAreThePreconditions : Obligations.ChecksAreThePreconditions := by
  unfold Obligations.ChecksAreThePreconditions
  intro i s
  obtain ⟨t, ht, -, hstatus⟩ := exec_status i s
  refine ⟨check_eq_none_iff_wellFormed i, t, ht, ?_⟩
  rw [hstatus]
  exact ⟨(checkStatus_eq_ok_iff _).mpr, fun f => (checkStatus_eq_fault_iff _ f).mpr⟩

/-! The outcomes of each operation (60_exceptions.md R211). -/

theorem checkEncode_cases (x y : Coord) (k : Order) :
    checkEncode x y k = none ∨ checkEncode x y k = some .orderRange ∨ checkEncode x y k = some .xRange ∨
      checkEncode x y k = some .yRange := by
  unfold checkEncode
  split_ifs <;> simp

theorem checkDecode_cases (v : Index) (k : Order) :
    checkDecode v k = none ∨ checkDecode v k = some .orderRange ∨ checkDecode v k = some .indexRange := by
  unfold checkDecode
  split_ifs <;> simp

/-- The status of an encode: OK exactly on the valid points, and else one of its three faults. -/
theorem checkStatus_checkEncode (x y : Coord) (k : Order) :
    (checkStatus (checkEncode x y k) = .ok ↔ PointOk x y k) ∧
      (checkStatus (checkEncode x y k) = .ok ∨ checkStatus (checkEncode x y k) = .fault .orderRange ∨
        checkStatus (checkEncode x y k) = .fault .xRange ∨ checkStatus (checkEncode x y k) = .fault .yRange) := by
  simp only [checkStatus_eq_ok_iff, checkStatus_eq_fault_iff]
  exact ⟨checkEncode_eq_none_iff x y k, checkEncode_cases x y k⟩

/-- The status of a decode: OK exactly on the valid indices, and else one of its two faults. -/
theorem checkStatus_checkDecode (v : Index) (k : Order) :
    (checkStatus (checkDecode v k) = .ok ↔ IndexOk v k) ∧
      (checkStatus (checkDecode v k) = .ok ∨ checkStatus (checkDecode v k) = .fault .orderRange ∨
        checkStatus (checkDecode v k) = .fault .indexRange) := by
  simp only [checkStatus_eq_ok_iff, checkStatus_eq_fault_iff]
  exact ⟨checkDecode_eq_none_iff v k, checkDecode_cases v k⟩

/-- Settles O54: the status is that of the checks, and these can find only the faults of their operation. -/
theorem outcomeTable : Obligations.OutcomeTable := by
  unfold Obligations.OutcomeTable
  intro i s
  obtain ⟨t, ht, -, hstatus⟩ := exec_status i s
  refine ⟨t, ht, ?_⟩
  rw [hstatus]
  cases i with
  | encd x y k => exact checkStatus_checkEncode x y k
  | encl x y k => exact checkStatus_checkEncode x y k
  | dec v k => exact checkStatus_checkDecode v k
  | _ => rfl

end Sys2Proof.Machine

/-! The encoding in the other direction: an instruction survives its request word (30_encoding.md R70, R72, R78). -/

namespace Sys2Proof

/-- The request of an instruction selects that instruction: `op` names it, and the fields it reads hold its operands. -/
theorem decodeRequest_encodeRequest (i : Instr) : decodeRequest (encodeRequest i) = i := by
  cases i <;> rfl

/-- Settles O1: unpacking gives the request back, and that request selects its instruction. -/
theorem decodeOfEncode : Obligations.DecodeOfEncode := by
  unfold Obligations.DecodeOfEncode
  intro i
  rw [decode, encode, Request.unpack_pack, decodeRequest_encodeRequest]

/-- Settles O4: `decodeRequest` matches on `op` alone, one branch for each code. -/
theorem opSelectsOperation : Obligations.OpSelectsOperation := by
  unfold Obligations.OpSelectsOperation decodeRequest
  intro q
  refine ⟨?_, ?_, ?_, ?_, ?_, ?_, ?_, ?_⟩ <;> intro hop <;> rw [hop] <;> rfl

/-- Settles O5: each word is a closed term, decoded by evaluation. -/
theorem sampleWordsDecode : Obligations.SampleWordsDecode := by
  unfold Obligations.SampleWordsDecode
  decide

end Sys2Proof

/-! The moves of the machine (10_state.md R22, R36; 70_reset_and_hazards.md R220, R221): what a step does on each turn of the host,
and from that the one inversion of `step` that the safety statements rest on. -/

namespace Sys2Proof.Machine

open Sys2Proof.Safety

/-! One equation for each turn of the host and each phase that decides it. -/

theorem step_submit_idle {s : State} {q : Request} {rest : List HostMove} (hturns : s.turns = .submit q :: rest)
    (hidle : s.phase = .idle) :
    step s = .next { s with turns := rest, req := q, phase := .busy, sent := s.sent ++ [q] } :=
  (step_submit hturns).trans (congrArg Host.Outcome.next (hostSubmit_idle (s := { s with turns := rest }) hidle q))

theorem step_submit_not_idle {s : State} {q : Request} {rest : List HostMove} (hturns : s.turns = .submit q :: rest)
    (hidle : s.phase ≠ .idle) : step s = .next { s with turns := rest } :=
  (step_submit hturns).trans (congrArg Host.Outcome.next (hostSubmit_not_idle (s := { s with turns := rest }) hidle q))

theorem step_take_done {s : State} {rest : List HostMove} (hturns : s.turns = .take :: rest) (hdone : s.phase = .done) :
    step s = .next { s with
      turns := rest
      phase := .idle
      taken := s.taken ++ [s.rsp]
      rsp := Config.freeRsp s.freeCount
      freeCount := s.freeCount + 1 } :=
  (step_take hturns).trans (congrArg Host.Outcome.next (hostTake_done (s := { s with turns := rest }) hdone))

theorem step_take_not_done {s : State} {rest : List HostMove} (hturns : s.turns = .take :: rest) (hdone : s.phase ≠ .done) :
    step s = .next { s with turns := rest } :=
  (step_take hturns).trans (congrArg Host.Outcome.next (hostTake_not_done (s := { s with turns := rest }) hdone))

/-- Whether the host waits by a turn or by having none left, the step is the unit's. -/
theorem step_of_hostWaits {s : State} {rest : List HostMove} (hwait : hostWaits s rest) :
    step s = unitStep { s with turns := rest } := by
  rcases hwait with hturns | ⟨hturns, rfl⟩
  · exact step_wait hturns
  · rw [step_no_turns hturns, ← hturns]

theorem step_busy_of_hostWaits {s : State} {rest : List HostMove} (hbusy : s.phase = .busy) (hwait : hostWaits s rest) :
    step s = exec (decodeRequest s.req) { s with turns := rest } :=
  (step_of_hostWaits hwait).trans (unitStep_busy (s := { s with turns := rest }) hbusy)

theorem step_not_busy_of_hostWaits {s : State} {rest : List HostMove} (hbusy : s.phase ≠ .busy) (hwait : hostWaits s rest) :
    step s = .next { s with turns := rest } :=
  (step_of_hostWaits hwait).trans (unitStep_not_busy (s := { s with turns := rest }) hbusy)

/-- Settles O16: every operation is one completion, which has these fields by definition. -/
theorem execFrame : Obligations.ExecFrame := by
  unfold Obligations.ExecFrame
  intro i s t ht
  obtain ⟨a, ha⟩ := exec_eq_completed i s
  obtain rfl : completed a s = t := Host.Outcome.next.inj (ha.symm.trans ht)
  exact ⟨completed_phase a s, completed_frame a s⟩

/-- The state t completes the request latched in s: it has the reference answer, in phase Done, and s's record of the host, with
these turns left. -/
structure Completes (s : State) (rest : List HostMove) (t : State) : Prop where
  answered : answers s.req t.rsp
  phase : t.phase = .done
  sent : t.sent = s.sent
  taken : t.taken = s.taken
  turns : t.turns = rest

/-- In Busy a waiting host lets the unit complete (70_reset_and_hazards.md R227). -/
theorem step_completes {s : State} {rest : List HostMove} (hbusy : s.phase = .busy) (hwait : hostWaits s rest) :
    ∃ t, step s = .next t ∧ Completes s rest t := by
  obtain ⟨t, ht, hanswer, hdone⟩ := exec_completesWith_refAnswer (decodeRequest s.req) { s with turns := rest }
  obtain ⟨-, hturns, hsent, htaken⟩ := execFrame _ _ _ ht
  exact ⟨t, (step_busy_of_hostWaits hbusy hwait).trans ht, hanswer, hdone, hsent, htaken, hturns⟩

/-! The inversion of `step`. -/

/-- The moves of both agents, and the steps that only spend a turn (10_state.md R22, R36; log entry 13). -/
inductive Moves (s : State) : State → Prop
  | submit (q : Request) (rest : List HostMove) (hturns : s.turns = .submit q :: rest) (hidle : s.phase = .idle) :
      Moves s { s with turns := rest, req := q, phase := .busy, sent := s.sent ++ [q] }
  | complete (rest : List HostMove) (hwait : hostWaits s rest) (hbusy : s.phase = .busy) (t : State)
      (ht : Completes s rest t) : Moves s t
  | take (rest : List HostMove) (hturns : s.turns = .take :: rest) (hdone : s.phase = .done) :
      Moves s { s with
        turns := rest
        phase := .idle
        taken := s.taken ++ [s.rsp]
        rsp := Config.freeRsp s.freeCount
        freeCount := s.freeCount + 1 }
  | reset (rest : List HostMove) (hturns : s.turns = .reset :: rest) : Moves s (hostReset { s with turns := rest })
  | spend (rest : List HostMove) : Moves s { s with turns := rest }

theorem exists_moves_of_hostWaits {s : State} {rest : List HostMove} (hwait : hostWaits s rest) :
    ∃ t, step s = .next t ∧ Moves s t := by
  by_cases hbusy : s.phase = .busy
  · obtain ⟨t, ht, hcompletes⟩ := step_completes hbusy hwait
    exact ⟨t, ht, .complete rest hwait hbusy t hcompletes⟩
  · exact ⟨_, step_not_busy_of_hostWaits hbusy hwait, .spend rest⟩

/-- Every state has a step, and it is one of the moves: the host's next turn, or else the unit's. -/
theorem exists_moves (s : State) : ∃ t, step s = .next t ∧ Moves s t := by
  match hturns : s.turns with
  | [] => exact exists_moves_of_hostWaits (.inr ⟨hturns, rfl⟩)
  | .wait :: rest => exact exists_moves_of_hostWaits (.inl hturns)
  | .submit q :: rest =>
    by_cases hidle : s.phase = .idle
    · exact ⟨_, step_submit_idle hturns hidle, .submit q rest hturns hidle⟩
    · exact ⟨_, step_submit_not_idle hturns hidle, .spend rest⟩
  | .take :: rest =>
    by_cases hdone : s.phase = .done
    · exact ⟨_, step_take_done hturns hdone, .take rest hturns hdone⟩
    · exact ⟨_, step_take_not_done hturns hdone, .spend rest⟩
  | .reset :: rest => exact ⟨_, step_reset hturns, .reset rest hturns⟩

theorem moves_of_step {s t : State} (h : step s = .next t) : Moves s t := by
  obtain ⟨u, hu, hmoves⟩ := exists_moves s
  rwa [Host.Outcome.next.inj (h.symm.trans hu)]

/-! The interface, move by move. -/

/-- Settles O7: a waiting host leaves the step to the unit, which runs the latched request; `withFetchWord` puts such a turn first. -/
theorem stepRunsTheLatchedRequest : Obligations.StepRunsTheLatchedRequest := by
  unfold Obligations.StepRunsTheLatchedRequest
  exact ⟨fun s rest hbusy hwait => step_busy_of_hostWaits hbusy hwait,
    fun s nbits w => step_busy_of_hostWaits (s := s.withFetchWord nbits w) (rest := s.turns) rfl (.inl rfl)⟩

/-- Settles O8: each clause is the step's equation on that turn, in that phase. -/
theorem interfaceTransitions : Obligations.InterfaceTransitions := by
  unfold Obligations.InterfaceTransitions
  refine fun s rest => ⟨fun q hturns => ?_, fun hturns => ?_, fun hwait => ?_⟩
  · by_cases hidle : s.phase = .idle
    · exact ⟨_, step_submit_idle hturns hidle, fun _ => ⟨rfl, rfl, rfl, rfl, rfl⟩, fun hother => absurd hidle hother⟩
    · exact ⟨_, step_submit_not_idle hturns hidle, fun hphase => absurd hphase hidle, fun _ => rfl⟩
  · by_cases hdone : s.phase = .done
    · exact ⟨_, step_take_done hturns hdone, fun _ => ⟨rfl, rfl, rfl, rfl⟩, fun hother => absurd hdone hother⟩
    · exact ⟨_, step_take_not_done hturns hdone, fun hphase => absurd hphase hdone, fun _ => rfl⟩
  · by_cases hbusy : s.phase = .busy
    · obtain ⟨t, ht, hanswer, hphase, hsent, htaken, hrest⟩ := step_completes hbusy hwait
      exact ⟨t, ht, fun _ => ⟨hanswer, hphase, hsent, htaken, hrest⟩, fun hother => absurd hbusy hother⟩
    · exact ⟨_, step_not_busy_of_hostWaits hbusy hwait, fun hphase => absurd hphase hbusy, fun _ => rfl⟩

theorem notAbandoned_not_idle {p : Phase} (hp : p ≠ .idle) (sent : List Request) : notAbandoned p sent = sent.dropLast := by
  cases p with
  | idle => exact absurd rfl hp
  | busy => rfl
  | done => rfl

/-- Settles O9: reset drops a request from the record exactly when one is pending (70_reset_and_hazards.md R221). -/
theorem resetAbandons : Obligations.ResetAbandons := by
  unfold Obligations.ResetAbandons
  exact fun s rest hturns => ⟨_, step_reset hturns, hostReset_phase _, hostReset_taken _, hostReset_turns _,
    fun hidle => by rw [hostReset_sent]; simp only [hidle, notAbandoned],
    fun hidle => notAbandoned_not_idle hidle s.sent⟩

/-- Settles O11: by definition of the reset state. -/
theorem resetIsIdle : Obligations.ResetIsIdle := by
  unfold Obligations.ResetIsIdle
  rfl

/-- Settles O12: every step is a move, and in Busy a waiting host's is the completion. -/
theorem stepAlwaysAnswers : Obligations.StepAlwaysAnswers := by
  unfold Obligations.StepAlwaysAnswers
  refine ⟨fun s => ?_, fun s rest hbusy hwait => ?_⟩
  · obtain ⟨t, ht, -⟩ := exists_moves s
    exact ⟨t, ht⟩
  · obtain ⟨t, ht, hcompletes⟩ := step_completes hbusy hwait
    exact ⟨t, ht, hcompletes.phase⟩

/-- Settles O10: one case for each move; a spent turn changes no phase. -/
theorem onlyTheseEventsChangePhase : Obligations.OnlyTheseEventsChangePhase := by
  unfold Obligations.OnlyTheseEventsChangePhase
  intro s t ht hphase
  cases moves_of_step ht with
  | submit q rest hturns hidle => exact .inl ⟨hidle, rfl, q, rest, hturns, rfl⟩
  | complete rest hwait hbusy t hcompletes => exact .inr (.inl ⟨hbusy, hcompletes.phase, rest, hwait⟩)
  | take rest hturns hdone => exact .inr (.inr (.inl ⟨hdone, rfl, rest, hturns⟩))
  | reset rest hturns => exact .inr (.inr (.inr ⟨rfl, rest, hturns⟩))
  | spend rest => exact absurd rfl hphase

/-! The history of a run (00_scope.md R6, 70_reset_and_hazards.md R228). -/

theorem history_idle_iff {s : State} (h : s.phase = .idle) : History s ↔ List.Forall₂ answers s.sent s.taken := by
  simp only [History, h]

theorem history_busy_iff {s : State} (h : s.phase = .busy) :
    History s ↔ ∃ qs, s.sent = qs ++ [s.req] ∧ List.Forall₂ answers qs s.taken := by
  simp only [History, h]

theorem history_done_iff {s : State} (h : s.phase = .done) :
    History s ↔ List.Forall₂ answers s.sent (s.taken ++ [s.rsp]) := by
  simp only [History, h]

/-- The completed request and its answer end the two lists (20_memory.md R60). -/
theorem history_of_completes {s t : State} {rest : List HostMove} (hbusy : s.phase = .busy) (hs : History s)
    (ht : Completes s rest t) : History t := by
  obtain ⟨qs, hsent, hanswers⟩ := (history_busy_iff hbusy).mp hs
  rw [history_done_iff ht.phase, ht.sent, ht.taken, hsent]
  exact List.rel_append hanswers (.cons ht.answered .nil)

/-- Dropping the last request leaves those that the responses taken answer. -/
theorem forall₂_dropLast_of_append_singleton {α β : Type} {R : α → β → Prop} {l : List α} {l' : List β} {b : β}
    (h : List.Forall₂ R l (l' ++ [b])) : List.Forall₂ R l.dropLast l' := by
  have hlength : l.length - 1 = l'.length := by rw [h.length_eq]; simp
  rw [List.dropLast_eq_take, hlength]
  exact List.forall₂_take_append l l' [b] h

/-- After a reset the record is that of the requests whose responses were taken (70_reset_and_hazards.md R221). -/
theorem history_hostReset {s : State} (hs : History s) : History (hostReset s) := by
  rw [history_idle_iff (hostReset_phase s), hostReset_sent, hostReset_taken]
  match hphase : s.phase with
  | .idle => exact (history_idle_iff hphase).mp hs
  | .busy =>
    obtain ⟨qs, hsent, hanswers⟩ := (history_busy_iff hphase).mp hs
    rwa [notAbandoned, hsent, List.dropLast_concat]
  | .done => exact forall₂_dropLast_of_append_singleton ((history_done_iff hphase).mp hs)

/-- Settles O17: one case for each move of `step`. -/
theorem historyKept : Obligations.HistoryKept := by
  unfold Obligations.HistoryKept
  intro s t hs ht
  cases moves_of_step ht with
  | submit q rest hturns hidle => exact ⟨s.sent, rfl, (history_idle_iff hidle).mp hs⟩
  | complete rest hwait hbusy t hcompletes => exact history_of_completes hbusy hs hcompletes
  | take rest hturns hdone => exact (history_done_iff hdone).mp hs
  | reset rest hturns => exact history_hostReset hs
  | spend rest => exact hs

/-- Settles O18: nothing is sent and nothing is taken. -/
theorem historyAtReset : Obligations.HistoryAtReset := by
  unfold Obligations.HistoryAtReset
  exact .nil

end Sys2Proof.Machine

/-! Whole requests: submit, wait, take from Idle, once and twice (00_scope.md R6, 70_reset_and_hazards.md R225,
60_exceptions.md R198 to R200). -/

namespace Sys2Proof.Machine

open Sys2Proof.Safety

theorem run_succ_of_step {n : Nat} {s t : State} (h : step s = .next t) :
    Host.Core.run core (n + 1) s = Host.Core.run core n t := by
  have hcore : core.step s = .next t := h
  simp only [Host.Core.run, hcore]

/-- The three steps of one request, and whatever steps follow them. -/
theorem run_request {s : State} {q : Request} {rest : List HostMove} (n : Nat) (hidle : s.phase = .idle)
    (hturns : s.turns = .submit q :: .wait :: .take :: rest) :
    ∃ t u, Host.Core.run core (n + 3) s = Host.Core.run core n t ∧ t.phase = .idle ∧ t.turns = rest ∧
      t.sent = s.sent ++ [q] ∧ t.taken = s.taken ++ [u] ∧ answers q u := by
  have hsubmit := step_submit_idle hturns hidle
  obtain ⟨t, ht, hcompletes⟩ := step_completes (rest := .take :: rest)
    (s := { s with turns := .wait :: .take :: rest, req := q, phase := .busy, sent := s.sent ++ [q] }) rfl (.inl rfl)
  have htake := step_take_done hcompletes.turns hcompletes.phase
  have hrun : Host.Core.run core (n + 3) s = Host.Core.run core n _ :=
    (run_succ_of_step hsubmit).trans ((run_succ_of_step ht).trans (run_succ_of_step htake))
  exact ⟨_, t.rsp, hrun, rfl, rfl, hcompletes.sent, congrArg (· ++ [t.rsp]) hcompletes.taken, hcompletes.answered⟩

/-- Settles O13: the three steps of one request, and none after them. -/
theorem oneRequestOneResponse : Obligations.OneRequestOneResponse := by
  unfold Obligations.OneRequestOneResponse
  intro s q rest hidle hturns
  obtain ⟨t, u, hrun, hrest⟩ := run_request 0 hidle hturns
  exact ⟨t, u, hrun, hrest⟩

/-- Two requests, one after the other, are each answered as the reference automaton answers them. -/
theorem run_two_requests (s : State) (a b : Request) (hidle : s.phase = .idle) :
    ∃ t u v, Host.Core.run core 6 { s with turns := [.submit a, .wait, .take, .submit b, .wait, .take] } = .next t ∧
      t.phase = .idle ∧ t.taken = s.taken ++ [u, v] ∧ answers a u ∧ answers b v := by
  obtain ⟨t, u, hrun, htidle, htturns, -, httaken, hu⟩ := run_request (q := a) (rest := [.submit b, .wait, .take])
    (s := { s with turns := [.submit a, .wait, .take, .submit b, .wait, .take] }) 3 hidle rfl
  obtain ⟨t', v, hrun', htidle', -, -, httaken', hv⟩ := run_request 0 htidle htturns
  refine ⟨t', u, v, hrun.trans hrun', htidle', ?_, hu, hv⟩
  rw [httaken', httaken, List.append_assoc, List.singleton_append]

/-- Two responses that answer one request agree in what its operation writes. -/
theorem agreeOn_of_answers {q : Request} {t u : Response} (ht : answers q t) (hu : answers q u) :
    agreeOn (decodeRequest q) t u :=
  agreeOn_of_carries (namesWrites_refAnswer (decodeRequest q)) ht hu

/-- Settles O14: in either order each response is its own request's reference answer. -/
theorem requestsCommute : Obligations.RequestsCommute := by
  unfold Obligations.RequestsCommute
  intro s a b hidle
  obtain ⟨t, ta, tb, ht, -, httaken, hta, htb⟩ := run_two_requests s a b hidle
  obtain ⟨u, ub, ua, hu, -, hutaken, hub, hua⟩ := run_two_requests s b a hidle
  exact ⟨t, u, ta, tb, ua, ub, ht, hu, httaken, hutaken, agreeOn_of_answers hta hua, agreeOn_of_answers htb hub⟩

theorem status_of_carries {t : Response} {a : Answer} (h : carries t a) (n : Nat) : t.status = (a.toResponse n).status := by
  cases a with
  | value r => exact h.1
  | cell rx ry => exact h.1
  | fault f => exact h

/-- A response that answers a request has the status of the request's checks (60_exceptions.md R190). -/
theorem status_of_answers {q : Request} {t : Response} (h : answers q t) :
    t.status = checkStatus (check (decodeRequest q)) := by
  rw [answers, ← execAnswer_eq_refAnswer State.reset.enc State.reset.dec] at h
  rw [status_of_carries h 0, execAnswer_toResponse_status]

/-- Settles O55: the faulting request and the next one are two requests like any other. -/
theorem faultLeavesNoTrace : Obligations.FaultLeavesNoTrace := by
  unfold Obligations.FaultLeavesNoTrace
  intro s bad q f hidle hcheck
  obtain ⟨t, u, v, hrun, htidle, htaken, hu, hv⟩ := run_two_requests s bad q hidle
  have hfault : u.status = .fault f := (status_of_answers hu).trans ((checkStatus_eq_fault_iff _ f).mpr hcheck)
  exact ⟨t, u, v, hrun, htidle, htaken, hfault, hv⟩

end Sys2Proof.Machine

/-! The encoders and the decoder against the reference automaton (42_encoder_direct.md R140, 43_encoder_lut.md R160,
44_decoder.md R170, R176). -/

namespace Sys2Proof.Machine

open Sys2Proof.Safety

/-- Settles O35: the first half of `encodesTo_refEncode`. -/
theorem encdEqualsReference : Obligations.EncdEqualsReference := by
  unfold Obligations.EncdEqualsReference
  intro x y k s hpt
  obtain ⟨hencd, -⟩ := encodesTo_refEncode hpt s
  exact hencd

/-- Settles O36: the second half of `encodesTo_refEncode`. -/
theorem enclEqualsReference : Obligations.EnclEqualsReference := by
  unfold Obligations.EnclEqualsReference
  intro x y k s hpt
  obtain ⟨-, hencl⟩ := encodesTo_refEncode hpt s
  exact hencl

/-- Settles O45: DEC completes with the reference cell, which is what `decodesTo` says. -/
theorem decEqualsReference : Obligations.DecEqualsReference := by
  unfold Obligations.DecEqualsReference
  exact fun v k s hv => decodesTo_refDecode hv s

/-- Settles O46: the cell is the reference cell, which is in range. -/
theorem decodedCellInRange : Obligations.DecodedCellInRange := by
  unfold Obligations.DecodedCellInRange
  intro v k s hv
  obtain ⟨-, hx, hy⟩ := pointOk_refDecode v hv.1
  exact ⟨_, _, decodesTo_refDecode hv s, hx, hy⟩

end Sys2Proof.Machine

/-! The top-level reflection (42_encoder_direct.md R141). -/

namespace Sys2Proof.Machine

open Sys2Proof.Safety

theorem toNat_ones {n : Nat} (hn : n ≤ 32) : (ones n).toNat = 2 ^ n - 1 := by
  revert n
  decide

/-- The reflection bit of a coordinate in range is the test against 2^(k−1): above it there is no bit. -/
theorem bitAt_top_eq_one_iff {x : Coord} {k : Order} (hk : OrderOk k) (hx : x.toNat < 2 ^ k.toNat) :
    bitAt x (k.toNat - 1) = 1 ↔ 2 ^ (k.toNat - 1) ≤ x.toNat := by
  have hhalf : x.toNat < 2 ^ (k.toNat - 1) ↔ x.getLsbD (k.toNat - 1) = false := by
    rw [toNat_lt_two_pow_iff_getLsbD]
    refine ⟨fun hclear => hclear _ (Nat.le_refl _), fun htop j hj => ?_⟩
    rcases hj.lt_or_eq with hj | rfl
    · exact (toNat_lt_two_pow_iff_getLsbD x k.toNat).mp hx j (by omega)
    · exact htop
  rw [bitAt_eq_iff, ← Nat.not_lt, hhalf, Bool.not_eq_false]
  rfl

/-- The k-bit complement is 2^k − 1 less the number. -/
theorem toNat_not_and_ones {x : Coord} {k : Nat} (hk : k ≤ 32) (hx : x.toNat < 2 ^ k) :
    (~~~x &&& ones k).toNat = 2 ^ k - 1 - x.toNat := by
  refine Nat.eq_of_testBit_eq fun i => ?_
  rw [Nat.sub_sub, Nat.add_comm 1, Nat.testBit_two_pow_sub_succ hx, BitVec.testBit_toNat, BitVec.testBit_toNat,
    BitVec.getLsbD_and, BitVec.getLsbD_not, getLsbD_ones hk]
  by_cases hi : i < k
  · have hi32 : i < 32 := by omega
    simp [hi, hi32]
  · simp [hi]

/-- The working copy of step 1 as a number. -/
theorem toNat_workingCopy_reflected {x : Coord} {k : Order} (hk : OrderOk k) (hx : x.toNat < 2 ^ k.toNat) :
    (workingCopy x k (bitAt x (k.toNat - 1))).toNat =
      if 2 ^ (k.toNat - 1) ≤ x.toNat then 2 ^ k.toNat - 1 - x.toNat else x.toNat := by
  simp only [workingCopy, bitAt_top_eq_one_iff hk hx]
  split_ifs
  · exact toNat_not_and_ones hk.2 hx
  · rfl

/-- The reflection leaves a number in the lower half of the range. -/
theorem toNat_workingCopy_reflected_lt {x : Coord} {k : Order} (hk : OrderOk k) (hx : x.toNat < 2 ^ k.toNat) :
    (workingCopy x k (bitAt x (k.toNat - 1))).toNat < 2 ^ (k.toNat - 1) := by
  have hdouble : 2 ^ k.toNat = 2 * 2 ^ (k.toNat - 1) := by rw [← Nat.pow_succ', Nat.succ_eq_add_one, Nat.sub_add_cancel hk.1]
  rw [toNat_workingCopy_reflected hk hx]
  split_ifs <;> omega

/-- Settles O30: the same three facts for both coordinates. -/
theorem reflectionNormalises : Obligations.ReflectionNormalises := by
  unfold Obligations.ReflectionNormalises
  rintro x y k w ⟨hk, hx, hy⟩
  exact ⟨bitAt_top_eq_one_iff hk hx, bitAt_top_eq_one_iff hk hy, toNat_workingCopy_reflected hk hx,
    toNat_workingCopy_reflected hk hy, toNat_workingCopy_reflected_lt hk hx, toNat_workingCopy_reflected_lt hk hy⟩

end Sys2Proof.Machine

/-! The seeds of both machines, row by row (42_encoder_direct.md R143, 44_decoder.md R173, R178). -/

namespace Sys2Proof.Machine

open Sys2Proof.Safety

theorem toNat_scale_repunit (d : Digit) {m : Nat} (h1 : 1 ≤ m) (hm : m ≤ 32) :
    (scale d (repunit m)).toNat = d.toNat * ((4 ^ m - 1) / 3) := by
  obtain ⟨-, -, hvalues⟩ := repunitValues
  obtain ⟨hrepunit, -, hscale⟩ := hvalues m h1 hm
  rw [hscale d, ← hrepunit, Nat.mul_div_cancel_left _ (by decide)]

/-- Step 3 of ENCD is the closed form for the reflection bits and m. -/
theorem seedDirect_eq_of_bits {w : EncRegs} {bx bY : Bit} (hx : w.bitX = bx) (hy : w.bitY = bY) :
    (seedDirect w).acc = scale (topDigit bx bY) (repunit w.m.toNat) ∧
      (seedDirect w).st = runState (topDigit bx bY) w.m.toNat := by
  subst hx hy
  exact ⟨rfl, rfl⟩

/-- Settles O32: the closed form at each of the four digits. -/
theorem directSeedTable : Obligations.DirectSeedTable := by
  unfold Obligations.DirectSeedTable
  refine fun w h1 hm => ⟨fun hx hy => ?_, fun hx hy => ?_, fun hx hy => ?_, fun hx hy => ?_⟩ <;>
    obtain ⟨hacc, hst⟩ := seedDirect_eq_of_bits hx hy <;> rw [hacc, hst]
  · exact ⟨rfl, by simp [runState, topDigit]⟩
  · exact ⟨(toNat_scale_repunit 1 h1 hm).trans (Nat.one_mul _), by simp [runState, topDigit]⟩
  · exact ⟨toNat_scale_repunit 2 h1 hm, by simp [runState, topDigit]⟩
  · exact ⟨(toNat_scale_repunit 3 h1 hm).trans (three_mul_repunit_value _), by simp [runState, topDigit]⟩

/-- The seeds of step 1 on the quadrant of digit d. -/
theorem seedQuadrant_eq_of_top {w : DecRegs} {d : Digit} (htop : w.top = d) :
    (seedQuadrant w).x = repeatBit (quadrant d).1 w.run.toNat ∧ (seedQuadrant w).y = repeatBit (quadrant d).2 w.run.toNat ∧
      (seedQuadrant w).st = quadrantState d w.run.toNat := by
  subst htop
  have hseed := seedQuadrant_eq_uniformCell w
  rw [uniformCell, Prod.mk.injEq, Prod.mk.injEq] at hseed
  exact hseed

theorem quadrantState_eq_runState (d : Digit) (r : Nat) : quadrantState d r = runState d r := by
  rcases digit_cases d with rfl | rfl | rfl | rfl <;> simp [quadrantState, runState]

theorem topDigit_quadrant : ∀ d : Digit, topDigit (quadrant d).1 (quadrant d).2 = d := by decide

/-- The state of a quadrant after its run is the one that the PRT prints (44_decoder.md R178). -/
theorem quadrantState_eq_prtState (d : Digit) {r : BitVec 6} (h1 : 1 ≤ r.toNat) (hr : r.toNat ≤ 32) :
    quadrantState d r.toNat = prtState (romRead prt (prtIndex (quadrant d).1 (quadrant d).2 r)) := by
  have hprinted := congrArg Prod.snd (romRead_prt_eq_prtClosed (quadrant d).1 (quadrant d).2 r h1 hr)
  rw [prtClosed, topDigit_quadrant] at hprinted
  exact (quadrantState_eq_runState d _).trans hprinted.symm

/-- Settles O44: the seeds repeat the bits of the quadrant's cell, and the closed form ties the state to the PRT. -/
theorem decoderSeeds : Obligations.DecoderSeeds := by
  unfold Obligations.DecoderSeeds
  intro w h1 hr
  have hones := toNat_ones hr
  refine ⟨fun htop => ?_, fun htop => ?_, fun htop => ?_, fun htop => ?_, ?_⟩
  · exact seedQuadrant_eq_of_top htop
  · obtain ⟨hx, hy, hst⟩ := seedQuadrant_eq_of_top htop
    exact ⟨hx, hy ▸ hones, hst⟩
  · obtain ⟨hx, hy, hst⟩ := seedQuadrant_eq_of_top htop
    exact ⟨hx ▸ hones, hy ▸ hones, hst⟩
  · obtain ⟨hx, hy, hst⟩ := seedQuadrant_eq_of_top htop
    exact ⟨hx ▸ hones, hy, hst⟩
  · obtain ⟨-, -, hst⟩ := seedQuadrant_eq_of_top (w := w) rfl
    exact hst.trans (quadrantState_eq_prtState w.top h1 hr)

end Sys2Proof.Machine

/-! The two loops (42_encoder_direct.md R144, R148; 44_decoder.md R174, R175). -/

namespace Sys2Proof.Machine

open Sys2Proof.Safety

/-- A number that n bits extend stays between a · 2^n and (a + 1) · 2^n, one bit at a time. -/
theorem shifted_bounds_succ {a b n r : Nat} (hb : b < 2) (h : (2 * a + b) * 2 ^ n ≤ r ∧ r < (2 * a + b + 1) * 2 ^ n) :
    a * 2 ^ (n + 1) ≤ r ∧ r < (a + 1) * 2 ^ (n + 1) := by
  have hlower : 2 * a * 2 ^ n ≤ (2 * a + b) * 2 ^ n := Nat.mul_le_mul_right _ (by omega)
  have hupper : (2 * a + b + 1) * 2 ^ n ≤ 2 * (a + 1) * 2 ^ n := Nat.mul_le_mul_right _ (by omega)
  rw [Nat.pow_succ', ← Nat.mul_assoc, ← Nat.mul_assoc, Nat.mul_comm a, Nat.mul_comm (a + 1)]
  omega

/-- n more digits append n bits to each coordinate and lose none of its bits (44_decoder.md R175). -/
theorem refDecodeFrom_bounds (v : Index) (n : Nat) (c : Coord × Coord × AutomatonState) (h : roomFor n c) :
    (c.1.toNat * 2 ^ n ≤ (refDecodeFrom v n c).1.toNat ∧ (refDecodeFrom v n c).1.toNat < (c.1.toNat + 1) * 2 ^ n) ∧
      c.2.1.toNat * 2 ^ n ≤ (refDecodeFrom v n c).2.1.toNat ∧
        (refDecodeFrom v n c).2.1.toNat < (c.2.1.toNat + 1) * 2 ^ n := by
  induction n generalizing c with
  | zero => simp [refDecodeFrom]
  | succ n ih =>
    have hcell := cellOf_descend h (digitAt v n)
    obtain ⟨hx, hy⟩ := ih (descend c (digitAt v n)) (roomFor_descend h _)
    rw [show (descend c (digitAt v n)).1.toNat = _ from congrArg Prod.fst hcell] at hx
    rw [show (descend c (digitAt v n)).2.1.toNat = _ from congrArg Prod.snd hcell] at hy
    rw [refDecodeFrom_succ]
    exact ⟨shifted_bounds_succ (BitVec.isLt _) hx, shifted_bounds_succ (BitVec.isLt _) hy⟩

/-- Settles O33: each loop is the reference automaton's, whose levels append digits and bits. -/
theorem loopsLoseNoBit : Obligations.LoopsLoseNoBit := by
  unfold Obligations.LoopsLoseNoBit
  refine ⟨fun x y n w hacc => ?_, fun v n w hx hy => ?_⟩
  · have hloop : (encLevels x y n w).acc = (refEncodeFrom x y n (w.acc, w.st)).1 :=
      congrArg Prod.fst (encLevels_acc_st x y n w)
    rw [hloop]
    exact refEncodeFrom_bounds x y n (w.acc, w.st) hacc
  · have hloop := decDigits_xy_st v n w
    obtain ⟨hboundsx, hboundsy⟩ := refDecodeFrom_bounds v n (w.x, w.y, w.st) ⟨hx, hy⟩
    rw [← hloop] at hboundsx hboundsy
    exact ⟨hboundsx.1, hboundsx.2, hboundsy⟩

/-- A counter that starts at z and steps down z + 1 times ends at −1. -/
theorem ofInt_sub_ofNat_succ {w : Nat} {z : Int} (hz : -1 ≤ z) :
    BitVec.ofInt w z - BitVec.ofNat w (z + 1).toNat = BitVec.ofInt w (-1) := by
  rw [← BitVec.ofInt_natCast, Int.toNat_of_nonneg (by omega)]
  rw [BitVec.sub_eq_iff_eq_add, ← BitVec.ofInt_add, neg_add_cancel_comm_assoc]

/-- The encoders' explicit levels leave `i` at −1, from any start position (10_state.md R25). -/
theorem explicitLevels_i_toInt (x y : Coord) {w : EncRegs} (hsp : -1 ≤ w.sp.toInt) :
    (explicitLevels x y w).i.toInt = -1 := by
  have hcount := ofInt_sub_ofNat_succ (w := 7) hsp
  rw [BitVec.ofInt_toInt] at hcount
  rw [explicitLevels, encLevels_i, hcount]
  rfl

/-- The decoder's explicit digits leave `j` at −1, whatever the run length (10_state.md R26). -/
theorem explicitDigits_j_toInt (v : Index) {k : Order} {w : DecRegs} (hrun : w.run.toNat ≤ k.toNat) :
    (explicitDigits v k w).j.toInt = -1 := by
  have hcount := ofInt_sub_ofNat_succ (w := 6) (z := (k.toNat : Int) - (w.run.toNat : Int) - 1) (by omega)
  rw [show ((k.toNat : Int) - (w.run.toNat : Int) - 1 + 1).toNat = k.toNat - w.run.toNat by omega] at hcount
  rw [explicitDigits, decDigits_j, hcount]
  rfl

/-- Settles O34: the loops run once for each value of their variable from its start down to 0. -/
theorem loopVariablesEndAtMinusOne : Obligations.LoopVariablesEndAtMinusOne := by
  unfold Obligations.LoopVariablesEndAtMinusOne
  refine ⟨fun x y k w _ => ?_, fun v k w hv => ?_⟩
  · have hsp := neg_one_le_encFront_sp x y k w
    exact ⟨explicitLevels_i_toInt x y (w := seedDirect (encFront x y k w)) hsp,
      explicitLevels_i_toInt x y (w := seedTable (encFront x y k w)) hsp⟩
  · obtain ⟨-, -, hrun⟩ := decFront_run_toNat hv w
    exact explicitDigits_j_toInt v hrun

end Sys2Proof.Machine

/-! The run length (44_decoder.md R172): what the scan finds, and that it is the encoder's number of uniform levels. -/

namespace Sys2Proof.Machine

open Sys2Proof.Safety

/-- Settles O42: the run is in 1..k, and the lengths up to it are exactly those of a leading run. -/
theorem scanGivesRunLength : Obligations.ScanGivesRunLength := by
  unfold Obligations.ScanGivesRunLength
  intro v k w hv
  obtain ⟨-, h1, hk⟩ := decFront_run_toNat hv w
  exact ⟨h1, hk, (le_decFront_run_iff_leadingRun hv w h1 hk).mp (Nat.le_refl _),
    fun r hr hrk => (le_decFront_run_iff_leadingRun hv w hr hrk).mpr⟩

theorem digitAt_scale_repunit (d : Digit) {m j : Nat} (hm : m ≤ 32) (hj : j < m) : digitAt (scale d (repunit m)) j = d := by
  induction m generalizing j with
  | zero => exact absurd hj (Nat.not_lt_zero j)
  | succ m ih =>
    rw [scale_repunit_succ d (by omega)]
    cases j with
    | zero => exact digitAt_zero_shiftLeft_or _ d
    | succ j => exact (digitAt_succ_shiftLeft_or _ d (by omega)).trans (ih (by omega) (by omega))

/-- Uniform levels at the top of a point give equal digits at the top of its index. -/
theorem digitAt_refEncode_of_uniform {x y : Coord} {bx bY : Bit} {k r : Nat} (hk : k ≤ 32) (hrk : r ≤ k)
    (huniform : ∀ i, k - r ≤ i → i < k → bitAt x i = bx ∧ bitAt y i = bY) {j : Nat} (hj : k - r ≤ j) (hjk : j < k) :
    digitAt (refEncode x y k) j = topDigit bx bY := by
  obtain ⟨n, rfl⟩ := Nat.exists_eq_add_of_le' hrk
  rw [Nat.add_sub_cancel] at hj huniform
  obtain ⟨i, rfl⟩ := Nat.exists_eq_add_of_le hj
  rw [refEncode, refEncodeFrom_uniform x y bx bY n r (by omega) huniform, digitAt_refEncodeFrom x y n _ (by omega)]
  exact digitAt_scale_repunit _ (by omega) (by omega)

/-- Equal digits at the top of an index give uniform levels at the top of its point. -/
theorem bitAt_refDecode_of_equal_digits {v : Index} {d : Digit} {k r : Nat} (hk : k ≤ 32) (hrk : r ≤ k)
    (hdigits : ∀ j, k - r ≤ j → j < k → digitAt v j = d) {i : Nat} (hi : k - r ≤ i) (hik : i < k) :
    bitAt (refDecode v k).1 i = (quadrant d).1 ∧ bitAt (refDecode v k).2 i = (quadrant d).2 := by
  obtain ⟨n, rfl⟩ := Nat.exists_eq_add_of_le' hrk
  rw [Nat.add_sub_cancel] at hi hdigits
  obtain ⟨j, rfl⟩ := Nat.exists_eq_add_of_le hi
  obtain ⟨hx, hy⟩ := bitAt_refDecodeFrom v n (uniformCell d r) (j := j) (by omega)
  rw [refDecode, refDecodeFrom_uniform v d n r (by omega) hdigits]
  exact ⟨hx.trans (bitAt_repeatBit _ (by omega) (by omega)), hy.trans (bitAt_repeatBit _ (by omega) (by omega))⟩

/-- Every uniform level of the point is a digit of the run of its index. -/
theorem encFront_m_le_decFront_run {x y : Coord} {k : Order} (hpt : PointOk x y k) (w : EncRegs) (u : DecRegs) :
    (encFront x y k w).m.toNat ≤ (decFront (refEncode x y k.toNat) k u).run.toNat := by
  have hk := hpt.1
  have hm := encFront_m_toNat hpt w
  have hlow := neg_one_le_encFront_sp x y k w
  have hhigh := encFront_sp_lt hpt w
  have hdigit {j : Nat} (hj : k.toNat - (encFront x y k w).m.toNat ≤ j) (hjk : j < k.toNat) :
      digitAt (refEncode x y k.toNat) j = topDigit (encFront x y k w).bitX (encFront x y k w).bitY :=
    digitAt_refEncode_of_uniform hk.2 (by omega)
      (fun i hi hik => bitAt_eq_of_encFront_sp_lt hpt w (by omega) hik) hj hjk
  refine (le_decFront_run_iff_leadingRun ⟨hk, refEncode_lt x y hk.2⟩ u (by omega) (by omega)).mpr fun j hj hjk => ?_
  rw [hdigit hj (by omega), hdigit (by omega) (by omega)]

/-- Every digit of the run of an index is a uniform level of its point: the decoder reads the point back from it. -/
theorem decFront_run_le_encFront_m {x y : Coord} {k : Order} (hpt : PointOk x y k) (w : EncRegs) (u : DecRegs) :
    (decFront (refEncode x y k.toNat) k u).run.toNat ≤ (encFront x y k w).m.toNat := by
  have hk := hpt.1
  have hv : IndexOk (refEncode x y k.toNat) k := ⟨hk, refEncode_lt x y hk.2⟩
  obtain ⟨-, h1, hrk⟩ := decFront_run_toNat hv u
  have hlead := (le_decFront_run_iff_leadingRun hv u h1 hrk).mp (Nat.le_refl _)
  generalize (decFront (refEncode x y k.toNat) k u).run.toNat = r at h1 hrk hlead ⊢
  have hbits {i : Nat} (hi : k.toNat - r ≤ i) (hik : i < k.toNat) :=
    bitAt_refDecode_of_equal_digits hk.2 hrk (fun j hj hjk => hlead j hj (by omega)) hi hik
  rw [refDecode_refEncode hpt] at hbits
  obtain ⟨hxtop, hytop⟩ := hbits (i := k.toNat - 1) (by omega) (by omega)
  have hsp : (encFront x y k w).sp.toInt < ((k.toNat - r : Nat) : Int) :=
    (encFront_sp_lt_iff hpt w _).mpr fun i hi hik => by
      obtain ⟨hx, hy⟩ := hbits hi hik
      exact ⟨hx.trans hxtop.symm, hy.trans hytop.symm⟩
  have hm := encFront_m_toNat hpt w
  omega

/-- Settles O43: each of the two counts reaches the other. -/
theorem runEqualsUniformLevels : Obligations.RunEqualsUniformLevels := by
  unfold Obligations.RunEqualsUniformLevels
  exact fun x y k w u hpt =>
    BitVec.eq_of_toNat_eq ((decFront_run_le_encFront_m hpt w u).antisymm (encFront_m_le_decFront_run hpt w u))

end Sys2Proof.Machine

/-! The group of the four orientations (41_tables.md R110). -/

namespace Sys2Proof.Machine

/-- Composing two orientations is the XOR of their codes: sixteen pairs of states, on the four positions of the cell. -/
theorem orient_orient : ∀ (a b : AutomatonState) (x y : Bit),
    orient a (orient b x y).1 (orient b x y).2 = orient (a ^^^ b) x y := by
  decide

/-- Settles O23: `orient_orient`, by evaluation. -/
theorem orientationsCompose : Obligations.OrientationsCompose := by
  unfold Obligations.OrientationsCompose
  exact orient_orient

end Sys2Proof.Machine
